-- ==== Sys2Proof/Word.lean ====
section
/-! DEFINITION. The one word type of the machine: the byte, the element of SRC, DST and LIT (20_memory.md R70).
Positions, counts, lengths, accumulators and header fields are exact integers (00_scope.md R15), so they are `Nat` or
`Int`, not bit vectors. -/

namespace Sys2Proof

/-- One byte of SRC, DST or LIT (R70). -/
abbrev Byte := BitVec 8

end Sys2Proof
end

