-- ==== Sys2Proof/Machine/Bits.lean ====
section
/-! DEFINITION. The bit, field and byte-order primitives of 00_scope.md R16 and 20_memory.md R75, over exact integers. -/

namespace Sys2Proof

/-- `field(v, off, n)` of R16: the `n`-bit field of `v` that starts at bit `off`. -/
def field (v off n : Nat) : Nat := v / 2 ^ off % 2 ^ n

/-- `v & mask(n)` of R16: the low `n` bits of `v`. -/
def lowBits (v n : Nat) : Nat := v % 2 ^ n

/-- `sext_32(v)` of R16, for a 32-bit `v`. -/
def sext32 (v : Nat) : Int := if v < 2 ^ 31 then (v : Int) else (v : Int) - 2 ^ 32

/-- The 32-bit two's-complement word of a signed field: what `sext32` reads back. -/
def word32 (i : Int) : Nat := (i % 2 ^ 32).toNat

/-- `clz32(x)` of R16, for `1 <= x < 2^32`. -/
def clz32 (x : Nat) : Nat := 31 - x.log2

/-- The little-endian value of a list of bytes, the first byte lowest (R75). -/
def leNat : List Byte → Nat
  | [] => 0
  | b :: bs => b.toNat + 256 * leNat bs

/-- The `n` little-endian bytes of `v`, low byte first (R75). -/
def leBytes : Nat → Nat → List Byte
  | 0, _ => []
  | n + 1, v => BitVec.ofNat 8 v :: leBytes n (v / 256)

/-- The little-endian `n`-byte field at byte offset `off` of a list of bytes. -/
def leAt (bs : List Byte) (off n : Nat) : Nat := leNat ((bs.drop off).take n)

/-- A byte list read as consecutive little-endian 16-bit values (the V1 frequency list, R105); an odd last byte is dropped. -/
def u16s : List Byte → List Nat
  | a :: b :: rest => (a.toNat + 256 * b.toNat) :: u16s rest
  | _ => []

/-- The bytes of a list of 16-bit values, each little-endian: what `u16s` reads back. -/
def u16Bytes : List Nat → List Byte
  | [] => []
  | v :: vs => leBytes 2 v ++ u16Bytes vs

/-- A list of flags as a number, the first flag bit 0. -/
def packBits : List Bool → Nat
  | [] => 0
  | b :: bs => b.toNat + 2 * packBits bs

end Sys2Proof
end

