-- ==== Sys2Proof/Config.lean ====
section
/-! DEFINITION. What an implementation fixes (the parameters of 00_scope.md R9 and R14, which a model takes as arguments),
and the one free value of the machine. The parameters stand in `State.cfg`, which no step writes; their default numbers are in
Machine/Params.lean. -/

namespace Sys2Proof

/-- The implementation parameters: the state counts of R9 (D1), each by its base-2 logarithm, so that a count is a power of
two (R9) below `2^32`, where `clz32` is defined (R16); and `LMD_TABLES` of R14 and R186 (D2). The counts themselves are
`Config.nLit`, `Config.nL`, `Config.nM` and `Config.nD` (log entry 6). -/
structure Config where
  litLog : Fin 32
  lLog : Fin 32
  mLog : Fin 32
  dLog : Fin 32
  lExtra : List Nat
  lBase : List Nat
  mExtra : List Nat
  mBase : List Nat
  dExtra : List Nat
  dBase : List Nat
  deriving DecidableEq, Repr

/-- FREE VALUE (20_memory.md R74, R80; log entry 3): the byte that DST holds at offset `p` while no rule has written it
since the `draw`-th copy. Host contents before START and bulk-copy slop are draws; nothing can be proved about them. -/
opaque Config.dstDraw (draw p : Nat) : Byte

end Sys2Proof
end

