-- ==== Sys2Proof/Machine/Params.lean ====
section
/-! DEFINITION. The numbers of the constants and ROMs: symbol counts (00_scope.md R8), block maxima (R10), the buffer size
(R11), the margin (R12), the default state counts (R9) and value tables (41_fse.md R186), and the V2 frequency-code ROMs
(42_header.md R240). -/

namespace Sys2Proof

/-- Symbol counts of the literal, L, M and D tables (R8). -/
def symLit : Nat := 256
def symL : Nat := 20
def symM : Nat := 20
def symD : Nat := 64

/-- The number of frequency counts in a header (R8). -/
def nFreqs : Nat := 360

/-- `MAX_LITERALS` (R10). -/
def maxLiterals : Nat := 40000

/-- `MAX_MATCHES` (R10). -/
def maxMatches : Nat := 10000

/-- `LIT_BUF_SIZE` (R11). -/
def litBufSize : Nat := 40000

/-- `MARGIN` (R12). -/
def margin : Nat := 32

/-- `L_EXTRA` and `L_BASE` of R186. -/
def lExtraTable : List Nat := [0, 0, 0, 0, 0, 0, 0, 0, 0, 0, 0, 0, 0, 0, 0, 0, 2, 3, 5, 8]
def lBaseTable : List Nat := [0, 1, 2, 3, 4, 5, 6, 7, 8, 9, 10, 11, 12, 13, 14, 15, 16, 20, 28, 60]

/-- `M_EXTRA` and `M_BASE` of R186. -/
def mExtraTable : List Nat := [0, 0, 0, 0, 0, 0, 0, 0, 0, 0, 0, 0, 0, 0, 0, 0, 3, 5, 8, 11]
def mBaseTable : List Nat := [0, 1, 2, 3, 4, 5, 6, 7, 8, 9, 10, 11, 12, 13, 14, 15, 16, 24, 56, 312]

/-- `D_EXTRA` and `D_BASE` of R186. -/
def dExtraTable : List Nat :=
  [0, 0, 0, 0, 1, 1, 1, 1, 2, 2, 2, 2, 3, 3, 3, 3, 4, 4, 4, 4, 5, 5, 5, 5, 6, 6, 6, 6, 7, 7, 7, 7] ++
  [8, 8, 8, 8, 9, 9, 9, 9, 10, 10, 10, 10, 11, 11, 11, 11, 12, 12, 12, 12, 13, 13, 13, 13] ++
  [14, 14, 14, 14, 15, 15, 15, 15]
def dBaseTable : List Nat :=
  [0, 1, 2, 3, 4, 6, 8, 10, 12, 16, 20, 24, 28, 36, 44, 52] ++
  [60, 76, 92, 108, 124, 156, 188, 220, 252, 316, 380, 444, 508, 636, 764, 892] ++
  [1020, 1276, 1532, 1788, 2044, 2556, 3068, 3580, 4092, 5116, 6140, 7164] ++
  [8188, 10236, 12284, 14332, 16380, 20476, 24572, 28668, 32764, 40956, 49148] ++
  [57340, 65532, 81916, 98300, 114684, 131068, 163836, 196604, 229372]

/-- `N_LIT`, `N_L`, `N_M` and `N_D` (R9): powers of two. -/
def Config.nLit (c : Config) : Nat := 2 ^ c.litLog.val
def Config.nL (c : Config) : Nat := 2 ^ c.lLog.val
def Config.nM (c : Config) : Nat := 2 ^ c.mLog.val
def Config.nD (c : Config) : Nat := 2 ^ c.dLog.val

/-- One more than the largest value of a value table: the values of symbol `i` are `BASE[i]` to `BASE[i] + 2^EXTRA[i] - 1`
(41_fse.md R186). -/
def valueTop (extra base : List Nat) : Nat := (List.zipWith (fun e b => b + 2 ^ e) extra base).foldr max 1

/-- The largest extra-bits count of a value table (40_bitreader.md R157). -/
def maxExtra (extra : List Nat) : Nat := extra.foldr max 0

/-- The bounds of the L, M and D values, from the tables of `cfg` as 10_state.md R37 asks: each register holds a value below
its bound. With the default tables they are 316, 2360 and 262140. -/
def Config.lTop (c : Config) : Nat := valueTop c.lExtra c.lBase
def Config.mTop (c : Config) : Nat := valueTop c.mExtra c.mBase
def Config.dTop (c : Config) : Nat := valueTop c.dExtra c.dBase

/-- The most bits that one L, M or D value takes: `log2(N) + max extra bits` (40_bitreader.md R157). -/
def Config.lBits (c : Config) : Nat := c.lLog.val + maxExtra c.lExtra
def Config.mBits (c : Config) : Nat := c.mLog.val + maxExtra c.mExtra
def Config.dBits (c : Config) : Nat := c.dLog.val + maxExtra c.dExtra

/-- Parameters that fit the core: a value table has an entry for each of its symbols (00_scope.md R8, 41_fse.md R186), and the
bits of four literals, or of one value, are never more than a flush guarantees (40_bitreader.md R151, R157). The other
parameters are no core of this spec, whose R157 says that no pull exceeds what the reader holds (DEDUCED, log entry 6). -/
def Config.Wf (c : Config) : Prop :=
  c.lExtra.length = symL ∧ c.lBase.length = symL ∧ c.mExtra.length = symM ∧ c.mBase.length = symM ∧
  c.dExtra.length = symD ∧ c.dBase.length = symD ∧
  4 * c.litLog.val ≤ 56 ∧ c.lBits ≤ 56 ∧ c.mBits ≤ 56 ∧ c.dBits ≤ 56

/-- The default parameters: the state counts 1024, 64, 64 and 256 of R9 and the value tables of R186. -/
def Config.default : Config where
  litLog := 10
  lLog := 6
  mLog := 6
  dLog := 8
  lExtra := lExtraTable
  lBase := lBaseTable
  mExtra := mExtraTable
  mBase := mBaseTable
  dExtra := dExtraTable
  dBase := dBaseTable

/-- `FREQ_NBITS` of R240. -/
def freqNbits : List Nat :=
  [2, 3, 2, 5, 2, 3, 2, 8, 2, 3, 2, 5, 2, 3, 2, 14] ++ [2, 3, 2, 5, 2, 3, 2, 8, 2, 3, 2, 5, 2, 3, 2, 14]

/-- `FREQ_VALUE` of R240; the entries that R240 marks as never used hold 0. -/
def freqValue : List Nat :=
  [0, 2, 1, 4, 0, 3, 1, 0, 0, 2, 1, 5, 0, 3, 1, 0] ++ [0, 2, 1, 6, 0, 3, 1, 0, 0, 2, 1, 7, 0, 3, 1, 0]

end Sys2Proof
end

