-- ==== Sys2Proof/Syntax.lean ====
section
/-! DEFINITION. The instructions: one constructor for each mnemonic of spec/opcode_table.json (the table splits a mnemonic
whose byte set is not one mask and match into several rows, 30_encoding.md R127). Operands are the decoded fields of
30_encoding.md R102 to R124, lengths with their biases already added. Literal bytes and block payloads are data that follow the
instruction in SRC; they are no operands. -/

namespace Sys2Proof

/-- Four values, one for each literal lane 0 to 3 (10_state.md R42). -/
structure Lanes where
  l0 : Nat
  l1 : Nat
  l2 : Nat
  l3 : Nat
  deriving DecidableEq, Repr

/-- All four lanes 0. -/
def Lanes.zero : Lanes := ⟨0, 0, 0, 0⟩

/-- The fields of the 770-byte V1 header (30_encoding.md R105), in the order of the wire. `freqs` is the 360-list of R106. -/
structure V1Header where
  nRaw : Nat
  nPayload : Nat
  nLiterals : Nat
  nMatches : Nat
  nLitPayload : Nat
  nLmdPayload : Nat
  literalBits : Int
  litState : Lanes
  lmdBits : Int
  lState : Nat
  mState : Nat
  dState : Nat
  freqs : List Nat
  deriving DecidableEq, Repr

/-- The fields of the 32-byte fixed part of a V2 header (30_encoding.md R107, R108). -/
structure V2Header where
  nRaw : Nat
  nLiterals : Nat
  nLitPayload : Nat
  nMatches : Nat
  literalBits : Int
  litState : Lanes
  nLmdPayload : Nat
  lmdBits : Int
  headerSize : Nat
  lState : Nat
  mState : Nat
  dState : Nat
  deriving DecidableEq, Repr

/-- The instructions of the core (30_encoding.md). -/
inductive Instr where
  /-- `bvx$`, the end-of-stream block (R102). -/
  | bvxEos
  /-- `bvx-`, the uncompressed block header (R103). -/
  | bvxRaw (nRaw : Nat)
  /-- `bvxn`, the LZVN block header (R104). -/
  | bvxLzvn (nRaw nPayload : Nat)
  /-- `bvx1`, the LZFSE V1 block header (R105). -/
  | bvx1 (h : V1Header)
  /-- `bvx2`, the fixed part of the LZFSE V2 block header (R107, R108). -/
  | bvx2 (h : V2Header)
  /-- `sml_d L, M, D` (R111). -/
  | smlD (l m d : Nat)
  /-- `med_d L, M, D` (R112). -/
  | medD (l m d : Nat)
  /-- `lrg_d L, M, D` (R113). -/
  | lrgD (l m d : Nat)
  /-- `pre_d L, M` (R114). -/
  | preD (l m : Nat)
  /-- `sml_m M` (R115). -/
  | smlM (m : Nat)
  /-- `lrg_m M` (R116). -/
  | lrgM (m : Nat)
  /-- `sml_l` of `L` literals (R117). -/
  | smlL (l : Nat)
  /-- `lrg_l` of `L` literals (R118). -/
  | lrgL (l : Nat)
  /-- `nop`, with the opcode byte it is written with (R119). -/
  | nop (opc : Byte)
  /-- LZVN `eos` (R120). -/
  | eos
  /-- `udef`, with its opcode byte (R121). -/
  | udef (opc : Byte)
  /-- The V2 frequency codes of 2, 3, 5, 8 and 14 bits, with the count they stand for (R123). -/
  | f2 (v : Nat)
  | f3 (v : Nat)
  | f5 (v : Nat)
  | f8 (v : Nat)
  | f14 (v : Nat)
  /-- One FSE-coded literal (R124): the current lane's state selects the table entry, so there is no operand. -/
  | litSym
  /-- One FSE-coded L, M or D value (R124). -/
  | lVal
  | mVal
  | dVal
  deriving DecidableEq, Repr

/-- The LZVN opcode classes (30_encoding.md R110). -/
inductive OpClass where
  | smlD | medD | lrgD | preD | smlM | lrgM | smlL | lrgL | nop | eos | udef
  deriving DecidableEq, Repr

end Sys2Proof
end

