-- ==== Sys2Proof/WellFormed.lean ====
section
/-! DEFINITION. Which terms of `Instr` stand for an instruction that can be encoded: every operand lies in the range its
field has (30_encoding.md R103 to R123), and an LZVN length pair lies in its class's opcode ranges (R110). -/

namespace Sys2Proof

/-- Every lane value is below `bound`. -/
def Lanes.below (bound : Nat) (x : Lanes) : Bool :=
  decide (x.l0 < bound) && decide (x.l1 < bound) && decide (x.l2 < bound) && decide (x.l3 < bound)

/-- Every field of a V1 header fits its width, and the frequency list has 360 entries of 16 bits (R105). -/
def V1Header.wf (h : V1Header) : Bool :=
  decide (h.nRaw < 2 ^ 32) && decide (h.nPayload < 2 ^ 32) && decide (h.nLiterals < 2 ^ 32) &&
  decide (h.nMatches < 2 ^ 32) && decide (h.nLitPayload < 2 ^ 32) && decide (h.nLmdPayload < 2 ^ 32) &&
  decide (-2 ^ 31 ≤ h.literalBits) && decide (h.literalBits < 2 ^ 31) &&
  h.litState.below (2 ^ 16) &&
  decide (-2 ^ 31 ≤ h.lmdBits) && decide (h.lmdBits < 2 ^ 31) &&
  decide (h.lState < 2 ^ 16) && decide (h.mState < 2 ^ 16) && decide (h.dState < 2 ^ 16) &&
  decide (h.freqs.length = 360) && h.freqs.all (fun f => decide (f < 2 ^ 16))

/-- Every field of a V2 fixed part fits its packed field (R108). -/
def V2Header.wf (h : V2Header) : Bool :=
  decide (h.nRaw < 2 ^ 32) && decide (h.nLiterals < 2 ^ 20) && decide (h.nLitPayload < 2 ^ 20) &&
  decide (h.nMatches < 2 ^ 20) && decide (-7 ≤ h.literalBits) && decide (h.literalBits ≤ 0) &&
  h.litState.below (2 ^ 10) && decide (h.nLmdPayload < 2 ^ 20) &&
  decide (-7 ≤ h.lmdBits) && decide (h.lmdBits ≤ 0) && decide (h.headerSize < 2 ^ 32) &&
  decide (h.lState < 2 ^ 10) && decide (h.mState < 2 ^ 10) && decide (h.dState < 2 ^ 10)

/-- The length pairs of the classes `sml_d` and `lrg_d`: `opc = LLMMMxxx` lies in `0x00-0x6F`, `0x80-0x9F` or `0xC0-0xCF`
(R111, R113). -/
def lmPair (l m : Nat) : Bool :=
  decide (3 ≤ m) &&
    ((decide (l = 0) && decide (m ≤ 10)) || (decide (l = 1) && decide (m ≤ 8)) ||
     (decide (l = 2) && decide (m ≤ 6)) || (decide (l = 3) && decide (m ≤ 4)))

/-- The undefined opcode values (R121). -/
def udefByte (opc : Nat) : Bool :=
  decide (opc = 0x1E) || decide (opc = 0x26) || decide (opc = 0x2E) || decide (opc = 0x36) || decide (opc = 0x3E) ||
  (decide (0x70 ≤ opc) && decide (opc ≤ 0x7F)) || (decide (0xD0 ≤ opc) && decide (opc ≤ 0xDF))

/-- The check of every operand. -/
def Instr.wf : Instr → Bool
  | .bvxEos => true
  | .bvxRaw nRaw => decide (nRaw < 2 ^ 32)
  | .bvxLzvn nRaw nPayload => decide (nRaw < 2 ^ 32) && decide (nPayload < 2 ^ 32)
  | .bvx1 h => h.wf
  | .bvx2 h => h.wf
  | .smlD l m d => lmPair l m && decide (d < 1536)
  | .medD l m d => decide (l ≤ 3) && decide (3 ≤ m) && decide (m ≤ 34) && decide (d < 2 ^ 14)
  | .lrgD l m d => lmPair l m && decide (d < 2 ^ 16)
  | .preD l m => decide (1 ≤ l) && lmPair l m
  | .smlM m => decide (1 ≤ m) && decide (m ≤ 15)
  | .lrgM m => decide (16 ≤ m) && decide (m ≤ 271)
  | .smlL l => decide (1 ≤ l) && decide (l ≤ 15)
  | .lrgL l => decide (16 ≤ l) && decide (l ≤ 271)
  | .nop opc => decide (opc = 0x0E#8) || decide (opc = 0x16#8)
  | .eos => true
  | .udef opc => udefByte opc.toNat
  | .f2 v => decide (v ≤ 1)
  | .f3 v => decide (2 ≤ v) && decide (v ≤ 3)
  | .f5 v => decide (4 ≤ v) && decide (v ≤ 7)
  | .f8 v => decide (8 ≤ v) && decide (v ≤ 23)
  | .f14 v => decide (24 ≤ v) && decide (v ≤ 1047)
  | .litSym => true
  | .lVal => true
  | .mVal => true
  | .dVal => true

end Sys2Proof
end

