-- ==== Sys2Proof/Decode.lean ====
section
/-! DEFINITION. The decoder, total on any bytes, and after it the encoder (30_encoding.md). Which table a unit of the stream is
read by is fixed by what the core is parsing (a block start, an LZVN payload, a V2 frequency stream, an FSE payload): the
opcode bytes of LZVN and the frequency codes use the same numbers, and no bit of the stream tells them apart. -/

namespace Sys2Proof

/-- Why no instruction was read. `headerShort`: fewer bytes than the magic or its header (45_dispatcher.md R381 to R385).
`badMagic`: the 4 bytes are no magic (R386). `opcodeShort`: fewer bytes than an LZVN opcode and its operands (44_lzvn.md R323). -/
inductive Reject where
  | headerShort
  | badMagic
  | opcodeShort
  deriving DecidableEq, Repr

/-- What the decoder answers. -/
inductive Decoded where
  | instr (i : Instr)
  | reject (r : Reject)
  deriving DecidableEq, Repr

/-- What the core is parsing, which selects the encoding table. -/
inductive Ctx where
  | block
  | lzvn
  | freq
  | lit
  | lVal
  | mVal
  | dVal
  deriving DecidableEq, Repr

/-! ## Block headers (section 1) -/

/-- The magics as the u32 that `SrcRead(p, 4)` yields (R101). -/
def magicEos : Nat := 0x24787662
def magicRaw : Nat := 0x2D787662
def magicLzvn : Nat := 0x6E787662
def magicV1 : Nat := 0x31787662
def magicV2 : Nat := 0x32787662

/-- Header lengths in bytes (R101, R105, R107). -/
def v1HeaderLen : Nat := 770
def v2FixedLen : Nat := 32

/-- The four 16-bit lane states at byte offset `off` (R105). -/
def lanesAt (bs : List Byte) (off : Nat) : Lanes where
  l0 := leAt bs off 2
  l1 := leAt bs (off + 2) 2
  l2 := leAt bs (off + 4) 2
  l3 := leAt bs (off + 6) 2

/-- The fields of the first 770 bytes of a V1 block (R105, 42_header.md R222). -/
def decodeV1 (bs : List Byte) : V1Header where
  nRaw := leAt bs 4 4
  nPayload := leAt bs 8 4
  nLiterals := leAt bs 12 4
  nMatches := leAt bs 16 4
  nLitPayload := leAt bs 20 4
  nLmdPayload := leAt bs 24 4
  literalBits := sext32 (leAt bs 28 4)
  litState := lanesAt bs 32
  lmdBits := sext32 (leAt bs 40 4)
  lState := leAt bs 44 2
  mState := leAt bs 46 2
  dState := leAt bs 48 2
  freqs := u16s ((bs.drop 50).take 720)

/-- The fields of the packed words `v0`, `v1` and `v2` of a V2 block (R108, 42_header.md R224). -/
def unpackV2 (nRaw v0 v1 v2 : Nat) : V2Header where
  nRaw := nRaw
  nLiterals := field v0 0 20
  nLitPayload := field v0 20 20
  nMatches := field v0 40 20
  literalBits := (field v0 60 3 : Int) - 7
  litState := ⟨field v1 0 10, field v1 10 10, field v1 20 10, field v1 30 10⟩
  nLmdPayload := field v1 40 20
  lmdBits := (field v1 60 3 : Int) - 7
  headerSize := field v2 0 32
  lState := field v2 32 10
  mState := field v2 42 10
  dState := field v2 52 10

/-- The fixed part of a V2 block (R107). -/
def decodeV2 (bs : List Byte) : V2Header :=
  unpackV2 (leAt bs 4 4) (leAt bs 8 8) (leAt bs 16 8) (leAt bs 24 8)

/-- A block header from the bytes at a block start: `SRC_EMPTY` causes before and after `BAD_MAGIC` in the order of
60_exceptions.md R429. -/
def decodeBlock (bs : List Byte) : Decoded :=
  if bs.length < 4 then .reject .headerShort
  else
    let magic := leAt bs 0 4
    if magic = magicEos then .instr .bvxEos
    else if magic = magicRaw then
      if bs.length < 8 then .reject .headerShort else .instr (.bvxRaw (leAt bs 4 4))
    else if magic = magicLzvn then
      if bs.length < 12 then .reject .headerShort else .instr (.bvxLzvn (leAt bs 4 4) (leAt bs 8 4))
    else if magic = magicV1 then
      if bs.length < v1HeaderLen then .reject .headerShort else .instr (.bvx1 (decodeV1 bs))
    else if magic = magicV2 then
      if bs.length < v2FixedLen then .reject .headerShort else .instr (.bvx2 (decodeV2 bs))
    else .reject .badMagic

/-! ## LZVN opcodes (section 2) -/

/-- The class of every opcode byte, keyed first by the high nibble and then by the low 3 bits (R110). -/
def opClass (opc : Nat) : OpClass :=
  let hi := opc / 16
  if hi = 7 ∨ hi = 13 then .udef
  else if hi = 10 ∨ hi = 11 then .medD
  else if hi = 14 then if opc % 16 = 0 then .lrgL else .smlL
  else if hi = 15 then if opc % 16 = 0 then .lrgM else .smlM
  else if opc % 8 < 6 then .smlD
  else if opc % 8 = 7 then .lrgD
  else if 4 ≤ hi then .preD
  else if opc = 0x06 then .eos
  else if opc = 0x0E ∨ opc = 0x16 then .nop
  else .udef

/-- The opcode and operand bytes of a class, without its literal bytes (`opc_len` of R111 to R121). -/
def OpClass.opcLen : OpClass → Nat
  | .smlD => 2
  | .medD => 3
  | .lrgD => 3
  | .preD => 1
  | .smlM => 1
  | .lrgM => 2
  | .smlL => 1
  | .lrgL => 2
  | .nop => 1
  | .eos => 8
  | .udef => 1

/-- An LZVN instruction from its opcode byte `opc`, the byte `b1` and the 16-bit word `w` after it (R111 to R121). `b1` and
`w` are read only by the classes that have them. -/
def decodeOpcode (opc : Byte) (b1 w : Nat) : Instr :=
  let o := opc.toNat
  match opClass o with
  | .smlD => .smlD (field o 6 2) (field o 3 3 + 3) (256 * field o 0 3 + b1)
  | .medD => .medD (field o 3 2) (4 * field o 0 3 + field w 0 2 + 3) (field w 2 14)
  | .lrgD => .lrgD (field o 6 2) (field o 3 3 + 3) w
  | .preD => .preD (field o 6 2) (field o 3 3 + 3)
  | .smlM => .smlM (field o 0 4)
  | .lrgM => .lrgM (b1 + 16)
  | .smlL => .smlL (field o 0 4)
  | .lrgL => .lrgL (b1 + 16)
  | .nop => .nop opc
  | .eos => .eos
  | .udef => .udef opc

/-- How many bytes of the opcode the decoder reads: the trailing 7 bytes of `eos` are not examined (R120). -/
def OpClass.readLen : OpClass → Nat
  | .eos => 1
  | c => c.opcLen

/-- An LZVN instruction from the bytes of the source window (R110 to R122). -/
def decodeLzvn : List Byte → Decoded
  | [] => .reject .opcodeShort
  | opc :: rest =>
    if (opc :: rest).length < (opClass opc.toNat).readLen then .reject .opcodeShort
    else .instr (decodeOpcode opc (leNat (rest.take 1)) (leNat (rest.take 2)))

/-! ## V2 frequency codes (section 3) -/

/-- The length of the code in the low bits of `acc` (`FREQ_NBITS`, 42_header.md R240). -/
def freqLen (acc : Nat) : Nat := freqNbits.getD (field acc 0 5) 0

/-- The frequency code in the low bits of `acc` (R123, 42_header.md R240). -/
def decodeFreq (acc : Nat) : Instr :=
  let v := freqValue.getD (field acc 0 5) 0
  match freqLen acc with
  | 2 => .f2 v
  | 3 => .f3 v
  | 5 => .f5 v
  | 8 => .f8 (8 + field acc 4 4)
  | _ => .f14 (24 + field acc 4 10)

/-! ## All contexts -/

/-- The decoder: the instruction that the bytes stand for in a parse context. An FSE symbol has no bit pattern of its own
(R124), so its context alone names it. -/
def decode (c : Ctx) (bs : List Byte) : Decoded :=
  match c with
  | .block => decodeBlock bs
  | .lzvn => decodeLzvn bs
  | .freq => .instr (decodeFreq (leNat bs))
  | .lit => .instr .litSym
  | .lVal => .instr .lVal
  | .mVal => .instr .mVal
  | .dVal => .instr .dVal

/-! ## Encoder -/

/-- The context an instruction is decoded in. -/
def Instr.ctx : Instr → Ctx
  | .bvxEos => .block
  | .bvxRaw _ => .block
  | .bvxLzvn _ _ => .block
  | .bvx1 _ => .block
  | .bvx2 _ => .block
  | .smlD _ _ _ => .lzvn
  | .medD _ _ _ => .lzvn
  | .lrgD _ _ _ => .lzvn
  | .preD _ _ => .lzvn
  | .smlM _ => .lzvn
  | .lrgM _ => .lzvn
  | .smlL _ => .lzvn
  | .lrgL _ => .lzvn
  | .nop _ => .lzvn
  | .eos => .lzvn
  | .udef _ => .lzvn
  | .f2 _ => .freq
  | .f3 _ => .freq
  | .f5 _ => .freq
  | .f8 _ => .freq
  | .f14 _ => .freq
  | .litSym => .lit
  | .lVal => .lVal
  | .mVal => .mVal
  | .dVal => .dVal

/-- The bytes of four lane states (R105). -/
def lanesBytes (x : Lanes) : List Byte := leBytes 2 x.l0 ++ leBytes 2 x.l1 ++ leBytes 2 x.l2 ++ leBytes 2 x.l3

/-- The 770 bytes of a V1 header (R105). -/
def encodeV1 (h : V1Header) : List Byte :=
  leBytes 4 magicV1 ++ leBytes 4 h.nRaw ++ leBytes 4 h.nPayload ++ leBytes 4 h.nLiterals ++ leBytes 4 h.nMatches ++
  leBytes 4 h.nLitPayload ++ leBytes 4 h.nLmdPayload ++ leBytes 4 (word32 h.literalBits) ++ lanesBytes h.litState ++
  leBytes 4 (word32 h.lmdBits) ++ leBytes 2 h.lState ++ leBytes 2 h.mState ++ leBytes 2 h.dState ++ u16Bytes h.freqs

/-- The packed words of a V2 header; the unused bits are 0 (R108). -/
def packV2w0 (h : V2Header) : Nat :=
  h.nLiterals + h.nLitPayload * 2 ^ 20 + h.nMatches * 2 ^ 40 + (h.literalBits + 7).toNat * 2 ^ 60
def packV2w1 (h : V2Header) : Nat :=
  h.litState.l0 + h.litState.l1 * 2 ^ 10 + h.litState.l2 * 2 ^ 20 + h.litState.l3 * 2 ^ 30 +
  h.nLmdPayload * 2 ^ 40 + (h.lmdBits + 7).toNat * 2 ^ 60
def packV2w2 (h : V2Header) : Nat :=
  h.headerSize + h.lState * 2 ^ 32 + h.mState * 2 ^ 42 + h.dState * 2 ^ 52

/-- The 32 bytes of the fixed part of a V2 header (R107). -/
def encodeV2 (h : V2Header) : List Byte :=
  leBytes 4 magicV2 ++ leBytes 4 h.nRaw ++ leBytes 8 (packV2w0 h) ++ leBytes 8 (packV2w1 h) ++ leBytes 8 (packV2w2 h)

/-- The opcode byte `LLMMMDDD` (R111, R113, R114). -/
def opcLMD (l m low : Nat) : Byte := BitVec.ofNat 8 (64 * l + 8 * (m - 3) + low)

/-- The bits of the code of a frequency (R123, R241); 0 for a count above 1047, which has no code. -/
def freqCode (v : Nat) : Nat :=
  if v ≤ 1 then 2 * v
  else if v ≤ 3 then 1 + 4 * (v - 2)
  else if v ≤ 7 then 3 + 8 * (v - 4)
  else if v ≤ 23 then 7 + 16 * (v - 8)
  else if v ≤ 1047 then 15 + 16 * (v - 24)
  else 0

/-- The bytes of an instruction, without the literal or payload bytes that follow it. A frequency code stands in the low bits
of its bytes; an FSE symbol has no bytes of its own. -/
def encode : Instr → List Byte
  | .bvxEos => leBytes 4 magicEos
  | .bvxRaw nRaw => leBytes 4 magicRaw ++ leBytes 4 nRaw
  | .bvxLzvn nRaw nPayload => leBytes 4 magicLzvn ++ leBytes 4 nRaw ++ leBytes 4 nPayload
  | .bvx1 h => encodeV1 h
  | .bvx2 h => encodeV2 h
  | .smlD l m d => opcLMD l m (d / 256) :: leBytes 1 d
  | .medD l m d => BitVec.ofNat 8 (0xA0 + 8 * l + (m - 3) / 4) :: leBytes 2 (4 * d + (m - 3) % 4)
  | .lrgD l m d => opcLMD l m 7 :: leBytes 2 d
  | .preD l m => [opcLMD l m 6]
  | .smlM m => [BitVec.ofNat 8 (0xF0 + m)]
  | .lrgM m => [0xF0#8, BitVec.ofNat 8 (m - 16)]
  | .smlL l => [BitVec.ofNat 8 (0xE0 + l)]
  | .lrgL l => [0xE0#8, BitVec.ofNat 8 (l - 16)]
  | .nop opc => [opc]
  | .eos => 0x06#8 :: List.replicate 7 0#8
  | .udef opc => [opc]
  | .f2 v => leBytes 1 (freqCode v)
  | .f3 v => leBytes 1 (freqCode v)
  | .f5 v => leBytes 1 (freqCode v)
  | .f8 v => leBytes 1 (freqCode v)
  | .f14 v => leBytes 2 (freqCode v)
  | .litSym => []
  | .lVal => []
  | .mVal => []
  | .dVal => []

/-! ## The opcode table's numbering -/

/-- How many bytes `decodeTableWord` and `State.withFetchWord` lay out: the longest instruction, the V1 header. -/
def fetchLen : Nat := 770

/-- The context in which a row of spec/opcode_table.json of `nbits` bits is read: 32 bits are a block magic, 8 bits an LZVN
opcode byte (every one of the 256 byte values is one, R110), any other width a frequency code. -/
def tableCtx (nbits : Nat) : Ctx := if 32 ≤ nbits then .block else if nbits = 8 then .lzvn else .freq

/-- The bytes of the table word `w`, low byte first, followed by zero bytes. -/
def tableBytes (nbits w : Nat) : List Byte := leBytes fetchLen (w % 2 ^ nbits)

/-- The instruction the decoder reads from the table word `w` of `nbits` bits followed by zeros. -/
def decodeTableWord (nbits w : Nat) : Option Instr :=
  match decode (tableCtx nbits) (tableBytes nbits w) with
  | .instr i => some i
  | .reject _ => none

end Sys2Proof
end

