-- ==== Sys2Proof/Machine/State.lean ====
section
/-! DEFINITION. The whole state of the core as plain data (10_state.md R30 to R46), the reasons a step can stop, and the state
right after reset. START is the core's only reset (70_reset_and_hazards.md R460). -/

namespace Sys2Proof.Machine

/-- A memory: its listed cells in strictly rising address order. What an unlisted address reads as is `unlisted` in
Machine/Ops.lean. -/
abbrev Memory := List Host.Cell

/-- The current block-type tag `blk` (R32, 45_dispatcher.md R380). -/
inductive Blk where
  | none
  | raw
  | lzvn
  | v1
  | v2
  deriving DecidableEq, Repr

/-- The outcome of the last run, `status` (R32). `unstarted` is the model's own name for the time before the first START, when
no output port is valid (R461). -/
inductive Status where
  | running
  | ok
  | srcEmpty
  | dstFull
  | malformed
  | unspec
  | unstarted
  deriving DecidableEq, Repr

/-- The cause enum of 60_exceptions.md R422: eleven Malformed causes and six model faults. -/
inductive Cause where
  | badMagic
  | hdrInvalid
  | hdrV2Freq
  | fseOverflow
  | bitstreamInit
  | bitstreamFlush
  | litOverrun
  | badDistance
  | lzvnUdef
  | lzvnDistance
  | lzvnAccounting
  | unassignedSlot
  | staleLiteral
  | pullUnderflow
  | srcOob
  | dstOob
  | litOob
  deriving DecidableEq, Repr

/-- The model faults `Unspec` (60_exceptions.md R422, R428): behaviour the spec leaves unspecified and tells a model to treat
as a fault, never as a value. All are safe. -/
inductive Fault where
  /-- A decode reads a table slot no symbol claimed (41_fse.md R184): `lit_sym`, `l_val`, `m_val`, `d_val`. Safe. -/
  | unassignedSlot
  /-- A literal copy reads a LIT entry this block's pass did not write (43_lzfse_block.md R283): the execute step. Safe. -/
  | staleLiteral
  /-- A pull of more bits than the reader holds (40_bitreader.md R157): the FSE symbols; unreachable from START. Safe. -/
  | pullUnderflow
  /-- A SRC read outside `0 .. src_len-1` (20_memory.md R72): any rule that reads SRC; unreachable from START. Safe. -/
  | srcOob
  /-- A DST access outside `0 .. dst_cap-1` (R72): any copy; unreachable from START. Safe. -/
  | dstOob
  /-- A LIT access outside `0 .. LIT_BUF_SIZE-1` (R72): `lit_sym` and the literal copy; unreachable from START. Safe. -/
  | litOob
  deriving DecidableEq, Repr

/-- The cause that the run loop records for a fault (45_dispatcher.md R398). -/
def Fault.cause : Fault → Cause
  | .unassignedSlot => .unassignedSlot
  | .staleLiteral => .staleLiteral
  | .pullUnderflow => .pullUnderflow
  | .srcOob => .srcOob
  | .dstOob => .dstOob
  | .litOob => .litOob

/-- Why the model answers without a meaning. No instruction does; the host commands are refused by these names
(70_reset_and_hazards.md R470 to R472), which is the spec's own rule and safe. -/
inductive Refusal where
  /-- An arm of `exec` without a meaning. No arm is left in this state. Safe. -/
  | notModelled (mnemonic : String)
  /-- START or RESUME while `status = RUNNING` (R470): `issueCommand`, `acceptCommand`. Safe. -/
  | commandWhileRunning
  /-- RESUME when the last run did not stop with SRC_EMPTY or DST_FULL, or before the first START (R470). Safe. -/
  | resumeNotStopped
  /-- SRC and DST overlap (R471). Safe. -/
  | buffersOverlap
  /-- `src_len` or `dst_cap` is not below `2^64` (R471). Safe. -/
  | buffersTooLong
  /-- The new SRC is shorter than the old one or differs from it in an old byte (R472). Safe. -/
  | resumeSrcChanged
  /-- The new `dst_cap` is below the old one (R472). Safe. -/
  | resumeDstShrunk
  /-- A DST byte below `dst_pos` is not as the core left it (R472). Safe. -/
  | resumeDstChanged
  deriving DecidableEq, Repr

/-- An entry of the symbol table `T_LIT` (10_state.md R39). -/
structure SymEntry where
  assigned : Bool
  sym : Nat
  nbits : Nat
  delta : Nat
  deriving DecidableEq, Repr

/-- An entry of a value table `T_L`, `T_M` or `T_D` (R39). -/
structure ValEntry where
  assigned : Bool
  totalBits : Nat
  vbits : Nat
  vbase : Nat
  delta : Nat
  deriving DecidableEq, Repr

/-- A slot that no symbol claimed (R39, 41_fse.md R184). A build writes only `assigned` of it (R181) and the spec is silent on
its other fields, which no rule reads: they hold 0 here (DESIGN CHOICE, log entry 12). -/
def SymEntry.unassigned : SymEntry := ⟨false, 0, 0, 0⟩
@[inherit_doc SymEntry.unassigned]
def ValEntry.unassigned : ValEntry := ⟨false, 0, 0, 0, 0⟩

/-- A backward bit reader (40_bitreader.md R150). -/
structure BitReader where
  acc : Nat
  nbits : Nat
  pos : Nat
  lower : Nat
  deriving DecidableEq, Repr

/-- The forward reader of the V2 frequency stream: the locals `acc`, `nb`, `q` and `qend` of 42_header.md R239. -/
structure FreqReader where
  acc : Nat
  nb : Nat
  q : Nat
  qend : Nat
  deriving DecidableEq, Repr

/-- The logical header record `H` (42_header.md R220). -/
structure Header where
  nRaw : Nat
  nPayload : Nat
  nLiterals : Nat
  nMatches : Nat
  nLitPayload : Nat
  nLmdPayload : Nat
  literalBits : Int
  litState : Lanes
  lmdBits : Int
  lState : Nat
  mState : Nat
  dState : Nat
  lFreq : List Nat
  mFreq : List Nat
  dFreq : List Nat
  litFreq : List Nat
  hdrLen : Nat
  deriving DecidableEq, Repr

/-- Where the sequencer stands inside one of the spec's own steps (the model's own register, log entry 2).
`ready`: at a step boundary of the run loop. `freqs`: before a V2 frequency code. `setup`: the header is read and its check comes
next. `lits`: in the literal pass. `mVal`, `dVal`: inside DecodeTriplet. `copy`: a triplet is decoded and Execute comes next. -/
inductive Phase where
  | ready
  | freqs
  | setup
  | lits
  | mVal
  | dVal
  | copy
  deriving DecidableEq, Repr

/-- What the host hands over with a command (45_dispatcher.md R395): the bytes of SRC, the capacity of DST, and two facts
about its buffers that are premises of the launch: SRC and DST are disjoint (20_memory.md R85), and the DST bytes below `dst_pos`
are as the core left them (R86; read by RESUME only). -/
structure Buffers where
  src : List Byte
  dstCap : Nat
  disjoint : Bool
  dstKept : Bool
  deriving DecidableEq, Repr

/-- A command on the `CMD` port (10_state.md R44). -/
inductive Command where
  | start (b : Buffers)
  | resume (b : Buffers)
  deriving DecidableEq, Repr

/-- The state of the core. -/
structure State where
  /-- The implementation parameters (00_scope.md R9, R14); no step writes them. -/
  cfg : Config
  /-- SRC and `src_len` (20_memory.md R70, 10_state.md R32). -/
  src : Memory
  srcLen : Nat
  /-- DST and `dst_cap`: the bytes the core has written (R70, R32, R74). -/
  dst : Memory
  dstCap : Nat
  /-- The stream registers (R32). -/
  srcPos : Nat
  dstPos : Nat
  blk : Blk
  status : Status
  cause : Option Cause
  eosSeen : Bool
  /-- The RAW sub-state (R35). -/
  rawRem : Nat
  /-- The LZVN sub-state (R36). -/
  vnRawRem : Nat
  vnPayRem : Nat
  vnD : Nat
  vnL : Nat
  vnM : Nat
  /-- The LZFSE triplet registers (R37); `D = none` is the sentinel NONE. -/
  nRem : Nat
  litPos : Nat
  lmdPay : Nat
  lSt : Nat
  mSt : Nat
  dSt : Nat
  L : Nat
  M : Nat
  D : Option Nat
  /-- The FSE tables (R39). -/
  tLit : List SymEntry
  tL : List ValEntry
  tM : List ValEntry
  tD : List ValEntry
  /-- The L/M/D bit reader (R40). -/
  lmd : BitReader
  /-- LIT with its `lit_written` bits: an entry is listed exactly when its bit is set (R41). -/
  lit : Memory
  /-- The transients of a block setup (R42). -/
  hdr : Header
  hdrFail : BitVec 14
  litrd : BitReader
  ls : Lanes
  /-- The sequencer and the locals of the pseudocode that live across its steps: the `magic` of 43_lzfse_block.md R270, the
  frequency reader and `FREQ360` of 42_header.md R239, the index `i` of R271, `Lv` of R277 and `Mv` of R278. -/
  phase : Phase
  magic : Nat
  freq : FreqReader
  freqs : List Nat
  litIdx : Nat
  lv : Nat
  mv : Nat
  /-- The model's own counter that draws a fresh content for the unspecified bytes of DST (20_memory.md R74, R80). -/
  draws : Nat
  /-- The `CMD` port: the command the host has strobed and the core has not yet taken (R44). -/
  cmd : Option Command
  deriving DecidableEq, Repr

/-- The values of the transients and of every register that 70_reset_and_hazards.md R460 leaves unspecified. -/
def BitReader.zero : BitReader := ⟨0, 0, 0, 0⟩
def FreqReader.zero : FreqReader := ⟨0, 0, 0, 0⟩
def Header.zero : Header := ⟨0, 0, 0, 0, 0, 0, 0, Lanes.zero, 0, 0, 0, 0, [], [], [], [], 0⟩

/-- The state that START leaves before its run (R460), for parameters `cfg` and empty buffers. The registers that R460 calls
unspecified hold 0, none or an unassigned slot (DESIGN CHOICE, log entry 1). -/
def State.initial (cfg : Config) : State where
  cfg := cfg
  src := []
  srcLen := 0
  dst := []
  dstCap := 0
  srcPos := 0
  dstPos := 0
  blk := .none
  status := .running
  cause := none
  eosSeen := false
  rawRem := 0
  vnRawRem := 0
  vnPayRem := 0
  vnD := 0
  vnL := 0
  vnM := 0
  nRem := 0
  litPos := 0
  lmdPay := 0
  lSt := 0
  mSt := 0
  dSt := 0
  L := 0
  M := 0
  D := none
  tLit := List.replicate cfg.nLit .unassigned
  tL := List.replicate cfg.nL .unassigned
  tM := List.replicate cfg.nM .unassigned
  tD := List.replicate cfg.nD .unassigned
  lmd := .zero
  lit := []
  hdr := .zero
  hdrFail := 0#14
  litrd := .zero
  ls := .zero
  phase := .ready
  magic := 0
  freq := .zero
  freqs := []
  litIdx := 0
  lv := 0
  mv := 0
  draws := 0
  cmd := none

/-- The machine right after reset: a START with empty buffers and the default parameters (R460; log entries 1 and 5). -/
def State.reset : State := State.initial Config.default

/-- The machine with parameters `cfg` before the first START (R461): nothing runs and no port is valid (log entry 9). -/
def State.beforeStart (cfg : Config) : State := { State.initial cfg with status := .unstarted }

end Sys2Proof.Machine
end

