-- ==== Sys2Proof/Machine/Ops.lean ====
section
/-! DEFINITION. The named operations that the meanings share: memory, the outcomes of 00_scope.md R18 (stop, raise, fault, and
going on after a stop), the accesses to SRC, DST and LIT (20_memory.md R70 to R80), and the copies. -/

namespace Sys2Proof.Machine

/-! ## Memory -/

/-- The three byte memories (20_memory.md R70). -/
inductive Space where
  | src
  | dst
  | lit
  deriving DecidableEq, Repr

/-- What an unlisted address of a memory reads as. SRC: the zero bytes of the supplied array are not listed (log entry 4).
DST: a byte the core has not written is unspecified (R74), so it has no value here; `dstRead` draws one. LIT: an entry whose
`lit_written` bit is clear holds no value (10_state.md R41). -/
def unlisted : Space → Option Byte
  | .src => some 0#8
  | .dst => none
  | .lit => none

/-- The listed byte at an address. -/
def memLookup : Memory → Nat → Option Byte
  | [], _ => none
  | (a, v) :: m, p => if a = p then some v else memLookup m p

/-- The byte at an address, where a listed or unlisted one exists. -/
def memRead (sp : Space) (m : Memory) (p : Nat) : Option Byte :=
  match memLookup m p with
  | some v => some v
  | none => unlisted sp

/-- The memory with the byte `v` listed at `p`. -/
def memInsert : Memory → Nat → Byte → Memory
  | [], p, v => [(p, v)]
  | (a, w) :: m, p, v =>
    if p < a then (p, v) :: (a, w) :: m
    else if a = p then (p, v) :: m
    else (a, w) :: memInsert m p v

/-- The memory with nothing listed at `p`. -/
def memErase (m : Memory) (p : Nat) : Memory := m.filter (fun c => c.1 != p)

/-- A write, which keeps the canonical form: a byte equal to what the unlisted address reads as is not listed. -/
def memWrite (sp : Space) (m : Memory) (p : Nat) (v : Byte) : Memory :=
  if unlisted sp = some v then memErase m p else memInsert m p v

/-- The cells below an address. -/
def memBelow (m : Memory) (n : Nat) : Memory := m.filter (fun c => c.1 < n)

/-- The memory that holds the bytes `bs` from address `p` on, and what `m` holds elsewhere. -/
def memLoad (sp : Space) : Memory → Nat → List Byte → Memory
  | m, _, [] => m
  | m, p, b :: bs => memLoad sp (memWrite sp m p b) (p + 1) bs

/-- Addresses strictly rise from `lo` on, and no entry equals what its unlisted address reads as. -/
def memCanonical (sp : Space) : Nat → Memory → Bool
  | _, [] => true
  | lo, (a, v) :: m => decide (lo ≤ a) && decide (unlisted sp ≠ some v) && memCanonical sp (a + 1) m

/-- The canonical form of a memory. -/
def Memory.wf (sp : Space) (m : Memory) : Bool := memCanonical sp 0 m

/-! ## Results

A meaning is a run of operations, each of which goes on with a value, ends the run (a stop or a raise, with the state as it
then is), or faults. -/

/-- What an operation answers. -/
inductive Res (α : Type) where
  | ok (a : α) (s : State)
  | ended (s : State)
  | fault (f : Fault)
  deriving DecidableEq, Repr

/-- The next operation, run where the one before goes on. -/
def Res.bind {α β : Type} (r : Res α) (k : α → State → Res β) : Res β :=
  match r with
  | .ok a s => k a s
  | .ended s => .ended s
  | .fault f => .fault f

/-- The outcome of a step: the run goes on, has ended (the host then sees the ports), or faults. -/
def Res.out (r : Res Unit) : Host.Outcome State Fault Refusal :=
  match r with
  | .ok _ s => .next s
  | .ended s => .next s
  | .fault f => .fault f

/-! ## Ending a run: stop, raise, fault -/

/-- `stop(S)` (00_scope.md R18, 45_dispatcher.md R398): the run ends with a non-fatal status, and no cause is set (60_exceptions.md
R427). The state is at a step boundary again, so RESUME re-enters the step rule of `blk` (R432). -/
def stopRun (st : Status) (s : State) : State := { s with status := st, phase := .ready }

/-- `raise Malformed(c)` (60_exceptions.md R421, R431): the run ends at once; only `status` and `cause` are written. This is all
there is of taking an exception: no register is saved and there is no handler address. -/
def raiseMalformed (c : Cause) (s : State) : State := { s with status := .malformed, cause := some c }

/-- What the run loop records for `fault Unspec(c)` (45_dispatcher.md R398). No claim may rest on another field of it (R428). -/
def latchFault (f : Fault) (s : State) : State := { s with status := .unspec, cause := some f.cause }

/-! ## SRC -/

/-- `SrcByte(p)` (00_scope.md R17, 20_memory.md R72). -/
def srcByte (s : State) (p : Nat) : Option Byte := if p < s.srcLen then memRead .src s.src p else none

/-- The bytes of SRC at `p .. p+n-1`; none where one of them does not exist. -/
def srcBytes (s : State) : Nat → Nat → Option (List Byte)
  | 0, _ => some []
  | n + 1, p =>
    match srcByte s p with
    | none => none
    | some b =>
      match srcBytes s n (p + 1) with
      | none => none
      | some bs => some (b :: bs)

/-- `SrcRead(p, n)` (R17, 20_memory.md R75): little-endian; `SrcRead(p, 0) = 0`. -/
def srcRead (s : State) (p n : Nat) : Option Nat := (srcBytes s n p).map leNat

/-- Source bytes from `src_pos` to the end of SRC. -/
def srcAvail (s : State) : Nat := s.srcLen - s.srcPos

/-! ## DST -/

/-- `DstRead(p)` (R17, 20_memory.md R72, R74): a byte no rule has written is a draw. -/
def dstRead (s : State) (p : Nat) : Option Byte :=
  if p < s.dstCap then
    match memRead .dst s.dst p with
    | some v => some v
    | none => some (Config.dstDraw s.draws p)
  else none

/-- `DstWrite(p, v)` (R17, 20_memory.md R72). -/
def dstWrite (p : Nat) (v : Byte) (s : State) : Res Unit :=
  if p < s.dstCap then .ok () { s with dst := memWrite .dst s.dst p v } else .fault .dstOob

/-- The state of DST after a copy (20_memory.md R80) or a RESUME (70_reset_and_hazards.md R472, R483): every byte at or above
`dst_pos` is unspecified, a new draw (log entry 3). -/
def slop (s : State) : State := { s with dst := memBelow s.dst s.dstPos, draws := s.draws + 1 }

/-! ## LIT -/

/-- `LitRead(i)` (R17, 20_memory.md R72, 43_lzfse_block.md R283). -/
def litRead (i : Nat) (s : State) : Res Byte :=
  if i < litBufSize then
    match memRead .lit s.lit i with
    | some v => .ok v s
    | none => .fault .staleLiteral
  else .fault .litOob

/-- `LitWrite(i, v)`, which sets `lit_written[i]` (R17, R271). -/
def litWrite (i : Nat) (v : Byte) (s : State) : Res Unit :=
  if i < litBufSize then .ok () { s with lit := memWrite .lit s.lit i v } else .fault .litOob

/-- The bit `lit_written[i]` (10_state.md R41). -/
def litWritten (s : State) (i : Nat) : Bool := (memRead .lit s.lit i).isSome

/-! ## Copies

Each copies byte by byte in increasing offset (20_memory.md R78) and moves no cursor. -/

/-- `n` bytes of SRC from `sp` to DST from `dp` (RAW, 45_dispatcher.md R390; `VnLit`, 44_lzvn.md R326). -/
def copyFromSrc : Nat → Nat → Nat → State → Res Unit
  | 0, _, _, s => .ok () s
  | n + 1, sp, dp, s =>
    match srcByte s sp with
    | none => .fault .srcOob
    | some v => (dstWrite dp v s).bind fun _ s' => copyFromSrc n (sp + 1) (dp + 1) s'

/-- `n` bytes of DST at distance `d` behind `dp` to DST from `dp` (`CopyMatch`, 43_lzfse_block.md R282; `VnMatch`, 44_lzvn.md
R327). A byte this copy has written is read back when `d < n`. -/
def copyFromDst (d : Nat) : Nat → Nat → State → Res Unit
  | 0, _, s => .ok () s
  | n + 1, dp, s =>
    if dp < d then .fault .dstOob
    else
      match dstRead s (dp - d) with
      | none => .fault .dstOob
      | some v => (dstWrite dp v s).bind fun _ s' => copyFromDst d n (dp + 1) s'

/-- `n` bytes of LIT from `lp` to DST from `dp` (`CopyLit`, 43_lzfse_block.md R281). -/
def copyFromLit : Nat → Nat → Nat → State → Res Unit
  | 0, _, _, s => .ok () s
  | n + 1, lp, dp, s =>
    (litRead lp s).bind fun v s' => (dstWrite dp v s').bind fun _ s'' => copyFromLit n (lp + 1) (dp + 1) s''

/-! ## Host commands: reset, and going on after a stop -/

/-- START's reset (70_reset_and_hazards.md R460, 45_dispatcher.md R396): every piece of state anew, the supplied buffers, and
`status = RUNNING`. The content of DST is a fresh draw (20_memory.md R74). -/
def startState (b : Buffers) (s : State) : State :=
  { State.initial s.cfg with
    src := memLoad .src [] 0 b.src
    srcLen := b.src.length
    dstCap := b.dstCap
    draws := s.draws + 1 }

/-- RESUME's effect (45_dispatcher.md R397): the grown buffers, and the run goes on; all other state is kept. The host keeps
only the DST bytes below `dst_pos` (20_memory.md R86, 70_reset_and_hazards.md R472), so the others are drawn anew; that they
stay one draw from the stop to the RESUME, and from there to the next copy, is the model's choice (log entry 3). -/
def resumeState (b : Buffers) (s : State) : State :=
  slop
    { s with
      src := memLoad .src [] 0 b.src
      srcLen := b.src.length
      dstCap := b.dstCap
      status := .running
      cause := none }

/-- Whether the old SRC is a prefix of the new one (R397, 70_reset_and_hazards.md R472). -/
def srcExtends (b : Buffers) (s : State) : Bool :=
  decide (s.srcLen ≤ b.src.length) && decide (memLoad .src [] 0 (b.src.take s.srcLen) = s.src)

/-- The core takes a command or refuses it by name (70_reset_and_hazards.md R470 to R472). A refusal changes no state. -/
def acceptCommand (c : Command) (s : State) : Host.Outcome State Fault Refusal :=
  if s.status = .running then .refused .commandWhileRunning
  else
    match c with
    | .start b =>
      if b.disjoint = false then .refused .buffersOverlap
      else if 2 ^ 64 ≤ b.src.length ∨ 2 ^ 64 ≤ b.dstCap then .refused .buffersTooLong
      else .next (startState b s)
    | .resume b =>
      if s.status ≠ .srcEmpty ∧ s.status ≠ .dstFull then .refused .resumeNotStopped
      else if b.disjoint = false then .refused .buffersOverlap
      else if 2 ^ 64 ≤ b.src.length ∨ 2 ^ 64 ≤ b.dstCap then .refused .buffersTooLong
      else if srcExtends b s = false then .refused .resumeSrcChanged
      else if b.dstCap < s.dstCap then .refused .resumeDstShrunk
      else if b.dstKept = false then .refused .resumeDstChanged
      else .next (resumeState b s)

/-- The host strobes `CMD` (10_state.md R44). While a run is on there is no such step (R470, 20_memory.md R84). In the spec a
command takes effect at once (45_dispatcher.md R395 to R397); here it waits in `cmd` for the core's next step, and a second
strobe before that step replaces the first, which is lost (DESIGN CHOICE, log entry 8). -/
def issueCommand (c : Command) (s : State) : Host.Outcome State Fault Refusal :=
  if s.status = .running then .refused .commandWhileRunning else .next { s with cmd := some c }

/-- The core between runs (60_exceptions.md R447): it takes the command on `CMD`, if there is one; a refused command is dropped
and changes nothing else (R470); with no command, nothing changes. -/
def idleStep (s : State) : State :=
  match s.cmd with
  | none => s
  | some c =>
    match acceptCommand c { s with cmd := none } with
    | .next s' => s'
    | _ => { s with cmd := none }

end Sys2Proof.Machine
end

