-- ==== Sys2Proof/Machine/Operands.lean ====
section
/-! DEFINITION. Operand forms: the windows an LZVN opcode works in (44_lzvn.md R321), the lane a literal belongs to (43_lzfse_block.md
R271), and the logical header record that a parsed V1 or V2 header gives (42_header.md R220). -/

namespace Sys2Proof.Machine

/-! ## LZVN windows -/

/-- `src_lim` (R321). -/
def vnSrcLim (s : State) : Nat := min s.srcLen (s.srcPos + s.vnPayRem)

/-- `dst_lim` (R321). -/
def vnDstLim (s : State) : Nat := min s.dstCap (s.dstPos + s.vnRawRem)

/-- `SA`: the source bytes the step may consume (R321). -/
def vnSA (s : State) : Nat := vnSrcLim s - s.srcPos

/-- `DA`: the destination bytes the step may produce (R321). -/
def vnDA (s : State) : Nat := vnDstLim s - s.dstPos

/-! ## Literal lanes -/

/-- The state of lane `k mod 4`. -/
def lane (x : Lanes) (k : Nat) : Nat :=
  match k % 4 with
  | 0 => x.l0
  | 1 => x.l1
  | 2 => x.l2
  | _ => x.l3

/-- The lanes with lane `k mod 4` at `v`. -/
def setLane (x : Lanes) (k v : Nat) : Lanes :=
  match k % 4 with
  | 0 => { x with l0 := v }
  | 1 => { x with l1 := v }
  | 2 => { x with l2 := v }
  | _ => { x with l3 := v }

/-! ## The logical header record -/

/-- The record with the 360-list of counts split into its four tables: L, M, D, literal (30_encoding.md R106, 42_header.md
R222, R226). -/
def withFreqs (h : Header) (fs : List Nat) : Header :=
  { h with
    lFreq := fs.take symL
    mFreq := (fs.drop symL).take symM
    dFreq := (fs.drop (symL + symM)).take symD
    litFreq := (fs.drop (symL + symM + symD)).take symLit }

/-- `H` from a V1 header (42_header.md R222). -/
def headerOfV1 (h : V1Header) : Header :=
  withFreqs
    { Header.zero with
      nRaw := h.nRaw
      nPayload := h.nPayload
      nLiterals := h.nLiterals
      nMatches := h.nMatches
      nLitPayload := h.nLitPayload
      nLmdPayload := h.nLmdPayload
      literalBits := h.literalBits
      litState := h.litState
      lmdBits := h.lmdBits
      lState := h.lState
      mState := h.mState
      dState := h.dState
      hdrLen := 770 }
    h.freqs

/-- `H`, except the frequencies, from the fixed part of a V2 header (42_header.md R224). R224 does not write the four frequency
lists; until the frequency decode (R226, R239) has ended they are empty here (DESIGN CHOICE, log entry 14). -/
def headerOfV2 (h : V2Header) : Header :=
  { Header.zero with
    nRaw := h.nRaw
    nPayload := h.nLitPayload + h.nLmdPayload
    nLiterals := h.nLiterals
    nMatches := h.nMatches
    nLitPayload := h.nLitPayload
    nLmdPayload := h.nLmdPayload
    literalBits := h.literalBits
    litState := h.litState
    lmdBits := h.lmdBits
    lState := h.lState
    mState := h.mState
    dState := h.dState
    hdrLen := h.headerSize }

/-- `body`: the SRC offset just past the header of the block at `src_pos` (43_lzfse_block.md R270). -/
def bodyPos (s : State) : Nat := s.srcPos + s.hdr.hdrLen

/-- The number of symbols the literal pass decodes: `4 * ceil(n_literals / 4)` (43_lzfse_block.md R271). -/
def litGoal (s : State) : Nat := 4 * ((s.hdr.nLiterals + 3) / 4)

end Sys2Proof.Machine
end

