-- ==== Sys2Proof/Machine/Blocks.lean ====
section
/-! DEFINITION. The meanings of the block headers (45_dispatcher.md R381 to R387) and the RAW copy (R390). `p` of the rules is
`src_pos`. -/

namespace Sys2Proof.Machine

/-- `bvx$` (R382): the stream ends, and bytes after the magic are never read. -/
def execBvxEos (s : State) : Host.Outcome State Fault Refusal :=
  if srcAvail s < 4 then .next (stopRun .srcEmpty s)
  else .next (stopRun .ok { s with srcPos := s.srcPos + 4, eosSeen := true })

/-- `bvx-` (R383). -/
def execBvxRaw (nRaw : Nat) (s : State) : Host.Outcome State Fault Refusal :=
  if srcAvail s < 8 then .next (stopRun .srcEmpty s)
  else .next { s with rawRem := nRaw, srcPos := s.srcPos + 8, blk := .raw }

/-- `bvxn` (R384, 44_lzvn.md R320). -/
def execBvxLzvn (nRaw nPayload : Nat) (s : State) : Host.Outcome State Fault Refusal :=
  if srcAvail s < 12 then .next (stopRun .srcEmpty s)
  else
    .next
      { s with
        vnRawRem := nRaw
        vnPayRem := nPayload
        vnD := 0
        vnL := 0
        vnM := 0
        srcPos := s.srcPos + 12
        blk := .lzvn }

/-- `bvx1` (R385, 42_header.md R222): the parse. The setup of 43_lzfse_block.md R270 goes on in the steps that follow. -/
def execBvx1 (h : V1Header) (s : State) : Host.Outcome State Fault Refusal :=
  if srcAvail s < v1HeaderLen then .next (stopRun .srcEmpty s)
  else .next { s with magic := magicV1, hdr := headerOfV1 h, phase := .setup }

/-- `bvx2` (R385, 42_header.md R224, R225, R239): the fixed part, the header length, and the start of the frequency stream. An
empty stream gives 360 zero counts. -/
def execBvx2 (h : V2Header) (s : State) : Host.Outcome State Fault Refusal :=
  if srcAvail s < v2FixedLen then .next (stopRun .srcEmpty s)
  else
    let s1 := { s with magic := magicV2, hdr := headerOfV2 h }
    if h.headerSize < v2FixedLen then .next (raiseMalformed .hdrV2Freq s1)
    else if srcAvail s < h.headerSize then .next (stopRun .srcEmpty s)
    else if h.headerSize = v2FixedLen then
      .next { s1 with hdr := withFreqs (headerOfV2 h) (List.replicate nFreqs 0), phase := .setup }
    else
      .next
        { s1 with
          freqs := []
          freq := ⟨0, 0, s.srcPos + v2FixedLen, s.srcPos + h.headerSize⟩
          phase := .freqs }

/-- The copy of `StepRAW` (R390): as many bytes as the block, SRC and DST allow. -/
def rawCopy (s : State) : Res Unit :=
  let n := min s.rawRem (min (srcAvail s) (s.dstCap - s.dstPos))
  (copyFromSrc n s.srcPos s.dstPos s).bind fun _ s1 =>
  .ok () (slop { s1 with srcPos := s1.srcPos + n, dstPos := s1.dstPos + n, rawRem := s1.rawRem - n })

/-- `StepRAW()` (R390): SRC_EMPTY wins over DST_FULL. -/
def stepRaw (s : State) : Res Unit :=
  if s.rawRem = 0 then .ok () { s with blk := .none }
  else if srcAvail s = 0 then .ended (stopRun .srcEmpty s)
  else if s.dstCap - s.dstPos = 0 then .ended (stopRun .dstFull s)
  else rawCopy s

end Sys2Proof.Machine
end

