-- ==== Sys2Proof/Machine/Header.lean ====
section
/-! DEFINITION. The V2 frequency stream (42_header.md R239, R240): the forward reader and the meanings of the frequency codes
`f2`, `f3`, `f5`, `f8` and `f14`. -/

namespace Sys2Proof.Machine

/-- The refill of R239: whole bytes, low bit first, while a byte is left and the 32-bit accumulator has room. At most `fuel`
bytes; four bytes always suffice. None where SRC has no such byte. -/
def freqRefill (s : State) : Nat → FreqReader → Option FreqReader
  | 0, r => some r
  | fuel + 1, r =>
    if r.q < r.qend ∧ r.nb + 8 ≤ 32 then
      match srcByte s r.q with
      | none => none
      | some b =>
        freqRefill s fuel { r with acc := r.acc ||| (b.toNat <<< r.nb), nb := r.nb + 8, q := r.q + 1 }
    else some r

/-- The reader as it stands when the next code is looked up. -/
def freqWindow (s : State) : Option FreqReader := freqRefill s 4 s.freq

/-- The check that ends R239, and `H` with its frequencies. -/
def freqsDone (s : State) : Res Unit :=
  if 8 ≤ s.freq.nb ∨ s.freq.q ≠ s.freq.qend then .ended (raiseMalformed .hdrV2Freq s)
  else .ok () { s with hdr := withFreqs s.hdr s.freqs, phase := .setup }

/-- One code of `n` bits and value `v` (R239): refill, the length check, the count, and after the 360th the final check. -/
def freqCount (n v : Nat) (s : State) : Res Unit :=
  match freqWindow s with
  | none => .fault .srcOob
  | some r =>
    let s1 := { s with freq := r }
    if r.nb < n then .ended (raiseMalformed .hdrV2Freq s1)
    else
      let s2 := { s1 with freqs := s.freqs ++ [v], freq := { r with acc := r.acc >>> n, nb := r.nb - n } }
      if s2.freqs.length < nFreqs then .ok () s2 else freqsDone s2

/-- `f2`. -/
def execF2 (v : Nat) (s : State) : Host.Outcome State Fault Refusal := (freqCount 2 v s).out

/-- `f3`. -/
def execF3 (v : Nat) (s : State) : Host.Outcome State Fault Refusal := (freqCount 3 v s).out

/-- `f5`. -/
def execF5 (v : Nat) (s : State) : Host.Outcome State Fault Refusal := (freqCount 5 v s).out

/-- `f8`. -/
def execF8 (v : Nat) (s : State) : Host.Outcome State Fault Refusal := (freqCount 8 v s).out

/-- `f14`. -/
def execF14 (v : Nat) (s : State) : Host.Outcome State Fault Refusal := (freqCount 14 v s).out

end Sys2Proof.Machine
end

