-- ==== Sys2Proof/Machine/Flags.lean ====
section
/-! DEFINITION. Every flag computation the spec gives: the 14-bit header-check vector (42_header.md R245) and the numeric codes
of the `STATUS` port (60_exceptions.md R423). The core has no condition codes (10_state.md R43). -/

namespace Sys2Proof.Machine

/-- The sum of a histogram. -/
def freqSum (fs : List Nat) : Nat := fs.foldr (· + ·) 0

/-- The bits of `hdr_fail`, bit 0 first (R245). -/
def hdrFailBits (cfg : Config) (magic : Nat) (h : Header) : List Bool :=
  [ decide (magic ≠ magicV1 ∧ magic ≠ magicV2),
    decide (h.nLiterals > maxLiterals),
    decide (h.nMatches > maxMatches),
    decide (h.litState.l0 ≥ cfg.nLit),
    decide (h.litState.l1 ≥ cfg.nLit),
    decide (h.litState.l2 ≥ cfg.nLit),
    decide (h.litState.l3 ≥ cfg.nLit),
    decide (h.lState ≥ cfg.nL),
    decide (h.mState ≥ cfg.nM),
    decide (h.dState ≥ cfg.nD),
    decide (freqSum h.lFreq > cfg.nL),
    decide (freqSum h.mFreq > cfg.nM),
    decide (freqSum h.dFreq > cfg.nD),
    decide (freqSum h.litFreq > cfg.nLit) ]

/-- `hdr_fail` of the header at hand (R245). -/
def hdrCheck (s : State) : BitVec 14 := BitVec.ofNat 14 (packBits (hdrFailBits s.cfg s.magic s.hdr))

/-- The code that the `STATUS` port reads as (60_exceptions.md R423); before the first START the port is not valid (R461). -/
def statusCode : Status → Option Int
  | .running => some 1
  | .ok => some 0
  | .srcEmpty => some (-1)
  | .dstFull => some (-2)
  | .malformed => some (-3)
  | .unspec => some (-4)
  | .unstarted => none

end Sys2Proof.Machine
end

