-- ==== Sys2Proof/Machine/Reader.lean ====
section
/-! DEFINITION. The backward bit-stream reader (40_bitreader.md): init, flush and pull, over either reader of the core. -/

namespace Sys2Proof.Machine

/-- The two readers: `litrd` over the literal payload and `lmd` over the L/M/D payload (10_state.md R40, R42). -/
inductive ReaderId where
  | litrd
  | lmd
  deriving DecidableEq, Repr

/-- The reader's four values. -/
def reader (w : ReaderId) (s : State) : BitReader :=
  match w with
  | .litrd => s.litrd
  | .lmd => s.lmd

/-- The state with the reader's four values written. -/
def setReader (w : ReaderId) (r : BitReader) (s : State) : State :=
  match w with
  | .litrd => { s with litrd := r }
  | .lmd => { s with lmd := r }

/-- The two checks that end `init` (R152). -/
def readerCheck (w : ReaderId) (s : State) : Res Unit :=
  let r := reader w s
  if r.nbits < 56 ∨ 63 < r.nbits then .ended (raiseMalformed .bitstreamInit s)
  else if r.acc >>> r.nbits ≠ 0 then .ended (raiseMalformed .bitstreamInit s)
  else .ok () s

/-- `init(n, end, lower)` (R152): 8 bytes are loaded, or 7 when `n = 0`. `n + 64` is a negative number of bits only for
`n < -64`, which the check that follows rejects as it rejects every count below 56. -/
def readerInit (w : ReaderId) (n : Int) (end_ lower : Nat) (s : State) : Res Unit :=
  let s0 := setReader w { reader w s with lower := lower } s
  let nb := if n = 0 then 7 else 8
  if end_ < lower + nb then .ended (raiseMalformed .bitstreamInit s0)
  else
    match srcRead s (end_ - nb) nb with
    | none => .fault .srcOob
    | some v =>
      readerCheck w
        (setReader w
          { acc := v, nbits := if n = 0 then 56 else (n + 64).toNat, pos := end_ - nb, lower := lower } s0)

/-- `(63 - nbits) & ~7`: the bits a flush adds (R155). -/
def flushAdd (nbits : Nat) : Nat := (63 - nbits) / 8 * 8

/-- `flush()` (R155): refill by whole bytes from lower offsets. -/
def flush (w : ReaderId) (s : State) : Res Unit :=
  let r := reader w s
  let add := flushAdd r.nbits
  let nb := add / 8
  if r.pos < r.lower + nb then .ended (raiseMalformed .bitstreamFlush s)
  else
    match srcRead s (r.pos - nb) nb with
    | none => .fault .srcOob
    | some v =>
      .ok () (setReader w { r with acc := (r.acc <<< add) ||| v, nbits := r.nbits + add, pos := r.pos - nb } s)

/-- `pull(n)` (R156, R157): the top `n` valid bits. -/
def pull (w : ReaderId) (n : Nat) (s : State) : Res Nat :=
  let r := reader w s
  if r.nbits < n then .fault .pullUnderflow
  else
    let left := r.nbits - n
    .ok (r.acc >>> left) (setReader w { r with acc := lowBits r.acc left, nbits := left } s)

end Sys2Proof.Machine
end

