-- ==== Sys2Proof/Machine/Fse.lean ====
section
/-! DEFINITION. The FSE table builder (41_fse.md R180 to R187), the decode steps (R188, R189), and the meanings of the FSE-coded
symbols `lit_sym`, `l_val`, `m_val` and `d_val` in the passes that decode them (43_lzfse_block.md R271, R277, R278). -/

namespace Sys2Proof.Machine

/-! ## Table construction -/

/-- The bits to read and the next-state delta of occurrence `j` of a symbol of frequency `f` in a table of `n` states (R181). -/
def occurrence (n f j : Nat) : Nat × Nat :=
  let k := clz32 f - clz32 n
  let j0 := ((2 * n) >>> k) - f
  if j < j0 then (k, ((f + j) <<< k) - n) else (k - 1, (j - j0) <<< (k - 1))

/-- The entries of the symbols from `i` on, in histogram order, and whether the running sum passed `n` (R181, R183). `mk` makes
symbol `i`'s entry from its bits and delta. On an overflow the entries up to that point remain (R187). -/
def fseEntries {α : Type} (n : Nat) (mk : Nat → Nat → Nat → α) : List Nat → Nat → Nat → List α × Bool
  | [], _, _ => ([], false)
  | f :: fs, i, cum =>
    if f = 0 then fseEntries n mk fs (i + 1) cum
    else if n < cum + f then ([], true)
    else
      let rest := fseEntries n mk fs (i + 1) (cum + f)
      ((List.range f).map (fun j => mk i (occurrence n f j).1 (occurrence n f j).2) ++ rest.1, rest.2)

/-- A table of `n` slots: the assigned entries, and unassigned slots after them (R184). What the fields of such a slot other
than `assigned` hold is the model's choice (DESIGN CHOICE, log entry 12). -/
def padTable {α : Type} (n : Nat) (unassigned : α) (es : List α) : List α :=
  es ++ List.replicate (n - es.length) unassigned

/-- A symbol table's entry (R181, `extra = none`). -/
def mkSym (i nb delta : Nat) : SymEntry := ⟨true, i, nb, delta⟩

/-- A value table's entry (R181 with `extra` and `base`). -/
def mkVal (extra base : List Nat) (i nb delta : Nat) : ValEntry :=
  ⟨true, nb + extra.getD i 0, extra.getD i 0, base.getD i 0, delta⟩

/-- `build(N, F, freq)` for the symbol table, with its overflow flag. -/
def buildSym (n : Nat) (fs : List Nat) : List SymEntry × Bool :=
  let r := fseEntries n mkSym fs 0 0
  (padTable n SymEntry.unassigned r.1, r.2)

/-- `build(N, F, freq, extra, base)` for a value table, with its overflow flag. -/
def buildVal (n : Nat) (extra base fs : List Nat) : List ValEntry × Bool :=
  let r := fseEntries n (mkVal extra base) fs 0 0
  (padTable n ValEntry.unassigned r.1, r.2)

/-- A built table is in place; an overflow raises FSE_OVERFLOW (R181, R187). -/
def afterBuild (overflow : Bool) (s : State) : Res Unit :=
  if overflow then .ended (raiseMalformed .fseOverflow s) else .ok () s

/-- The four builds of a block, in order (R180, 43_lzfse_block.md R270). -/
def buildTables (s : State) : Res Unit :=
  let c := s.cfg
  let h := s.hdr
  let bLit := buildSym c.nLit h.litFreq
  let bL := buildVal c.nL c.lExtra c.lBase h.lFreq
  let bM := buildVal c.nM c.mExtra c.mBase h.mFreq
  let bD := buildVal c.nD c.dExtra c.dBase h.dFreq
  (afterBuild bLit.2 { s with tLit := bLit.1 }).bind fun _ s1 =>
  (afterBuild bL.2 { s1 with tL := bL.1 }).bind fun _ s2 =>
  (afterBuild bM.2 { s2 with tM := bM.1 }).bind fun _ s3 =>
  afterBuild bD.2 { s3 with tD := bD.1 }

/-! ## Decode steps -/

/-- `DecodeSym(T_LIT, st, litrd)` (R188): the symbol and the next state. A state past the table's end reads no claimed slot. -/
def decodeSym (st : Nat) (s : State) : Res (Nat × Nat) :=
  let e := s.tLit.getD st SymEntry.unassigned
  if e.assigned = false then .fault .unassignedSlot
  else (pull .litrd e.nbits s).bind fun b s' => .ok (e.sym, e.delta + b) s'

/-- `DecodeVal(T, st, lmd)` (R189): the value and the next state. -/
def decodeVal (t : List ValEntry) (st : Nat) (s : State) : Res (Nat × Nat) :=
  let e := t.getD st ValEntry.unassigned
  if e.assigned = false then .fault .unassignedSlot
  else (pull .lmd e.totalBits s).bind fun b s' => .ok (e.vbase + lowBits b e.vbits, e.delta + b >>> e.vbits) s'

/-! ## Meanings -/

/-- One symbol of the literal pass (43_lzfse_block.md R271): lane 0 of each group of four flushes the reader first. -/
def litSymbol (s : State) : Res Unit :=
  (if s.litIdx % 4 = 0 then flush .litrd s else .ok () s).bind fun _ s1 =>
  (decodeSym (lane s1.ls s1.litIdx) s1).bind fun r s2 =>
  (litWrite s2.litIdx (BitVec.ofNat 8 r.1) s2).bind fun _ s3 =>
  .ok () { s3 with ls := setLane s3.ls s3.litIdx r.2, litIdx := s3.litIdx + 1 }

/-- `lit_sym`. -/
def execLitSym (s : State) : Host.Outcome State Fault Refusal := (litSymbol s).out

/-- DecodeTriplet, part 1 (43_lzfse_block.md R277): the literal length. -/
def literalLength (s : State) : Res Unit :=
  (flush .lmd s).bind fun _ s1 =>
  (decodeVal s1.tL s1.lSt s1).bind fun r s2 =>
  let s3 := { s2 with lv := r.1, lSt := r.2 }
  if litBufSize < s3.litPos + r.1 then .ended (raiseMalformed .litOverrun s3)
  else .ok () { s3 with phase := .mVal }

/-- `l_val`. -/
def execLVal (s : State) : Host.Outcome State Fault Refusal := (literalLength s).out

/-- DecodeTriplet, part 2, the match length (43_lzfse_block.md R278). -/
def matchLength (s : State) : Res Unit :=
  (flush .lmd s).bind fun _ s1 =>
  (decodeVal s1.tM s1.mSt s1).bind fun r s2 =>
  .ok () { s2 with mv := r.1, mSt := r.2, phase := .dVal }

/-- `m_val`. -/
def execMVal (s : State) : Host.Outcome State Fault Refusal := (matchLength s).out

/-- DecodeTriplet, part 2, the distance (43_lzfse_block.md R278): a zero value keeps the previous distance. -/
def matchDistance (s : State) : Res Unit :=
  (flush .lmd s).bind fun _ s1 =>
  (decodeVal s1.tD s1.dSt s1).bind fun r s2 =>
  .ok ()
    { s2 with
      dSt := r.2
      D := if r.1 = 0 then s2.D else some r.1
      L := s2.lv
      M := s2.mv
      nRem := s2.nRem - 1
      phase := .copy }

/-- `d_val`. -/
def execDVal (s : State) : Host.Outcome State Fault Refusal := (matchDistance s).out

end Sys2Proof.Machine
end

