-- ==== Sys2Proof/Machine/Lzfse.lean ====
section
/-! DEFINITION. The LZFSE block decoder (43_lzfse_block.md): the setup around the literal pass, and the triplet step around the
FSE-coded values. -/

namespace Sys2Proof.Machine

/-! ## Setup -/

/-- `Validate(H)` (42_header.md R245). -/
def validate (s : State) : Res Unit :=
  let s1 := { s with hdrFail := hdrCheck s }
  if s1.hdrFail ≠ 0#14 then .ended (raiseMalformed .hdrInvalid s1) else .ok () s1

/-- The body check (R270, R273): a short body commits nothing. -/
def bodyCheck (s : State) : Res Unit :=
  if s.srcLen < bodyPos s + s.hdr.nLitPayload + s.hdr.nLmdPayload then .ended (stopRun .srcEmpty s) else .ok () s

/-- The start of `LiteralPass(body)` (R271): every `lit_written` bit cleared, the reader over the literal payload, the lane
states. -/
def litInit (s : State) : Res Unit :=
  (readerInit .litrd s.hdr.literalBits (bodyPos s + s.hdr.nLitPayload) 0 { s with lit := [] }).bind fun _ s1 =>
  .ok () { s1 with ls := s1.hdr.litState, litIdx := 0, phase := .lits }

/-- `SetupLZFSE` from the header check to the start of the literal pass, in the order of 42_header.md R246. -/
def setupStep (s : State) : Res Unit :=
  (validate s).bind fun _ s1 =>
  (bodyCheck s1).bind fun _ s2 =>
  (buildTables s2).bind fun _ s3 =>
  litInit s3

/-- `LmdInit(body)` (R272), after the literal pass. The setup is then over and `H`, `hdr_fail`, `litrd` and `ls` are unspecified
(10_state.md R42); they keep their last values here (DESIGN CHOICE, log entry 14). -/
def lmdInit (s : State) : Res Unit :=
  let h := s.hdr
  let lmdStart := bodyPos s + h.nLitPayload
  (readerInit .lmd h.lmdBits (lmdStart + h.nLmdPayload) 0 s).bind fun _ s1 =>
  .ok ()
    { s1 with
      lSt := h.lState
      mSt := h.mState
      dSt := h.dState
      L := 0
      M := 0
      D := none
      nRem := h.nMatches
      litPos := 0
      lmdPay := h.nLmdPayload
      srcPos := lmdStart
      blk := if s.magic = magicV1 then .v1 else .v2
      phase := .ready }

/-! ## The triplet step -/

/-- The condition of `SourceCheck()` (R275). -/
def sourceShort (s : State) : Bool := decide (s.srcLen ≤ s.srcPos) || decide (srcAvail s < s.lmdPay)

/-- `EndBlock()` (R276). -/
def endBlock (s : State) : State := { s with srcPos := s.srcPos + s.lmdPay, blk := .none }

/-- `CopyLit(n)` (R281). -/
def copyLit (n : Nat) (s : State) : Res Unit :=
  (copyFromLit n s.litPos s.dstPos s).bind fun _ s1 =>
  .ok () (slop { s1 with dstPos := s1.dstPos + n, litPos := s1.litPos + n })

/-- `CopyMatch(n)` at distance `d` (R282). -/
def copyMatch (d n : Nat) (s : State) : Res Unit :=
  (copyFromDst d n s.dstPos s).bind fun _ s1 => .ok () (slop { s1 with dstPos := s1.dstPos + n })

/-- The fast path (R280). -/
def fastCopy (d : Nat) (s : State) : Res Unit :=
  (copyLit s.L s).bind fun _ s1 =>
  (copyMatch d s1.M s1).bind fun _ s2 =>
  .ok () { s2 with L := 0, M := 0, phase := .ready }

/-- The slow path's match (R282), with `rem` bytes of room. -/
def slowMatch (d rem : Nat) (s : State) : Res Unit :=
  if s.M ≤ rem then (copyMatch d s.M s).bind fun _ s1 => .ok () { s1 with M := 0, phase := .ready }
  else (copyMatch d rem s).bind fun _ s1 => .ended (stopRun .dstFull { s1 with M := s1.M - rem })

/-- The slow path (R281, R282): as much as fits; the rest stays pending. -/
def slowCopy (d : Nat) (s : State) : Res Unit :=
  let rem := s.dstCap - s.dstPos
  if s.L ≤ rem then (copyLit s.L s).bind fun _ s1 => slowMatch d (rem - s.L) { s1 with L := 0 }
  else (copyLit rem s).bind fun _ s1 => .ended (stopRun .dstFull { s1 with L := s1.L - rem })

/-- `Execute()` (R279 to R282): the distance check comes before any copy. -/
def execute (s : State) : Res Unit :=
  match s.D with
  | none => .ended (raiseMalformed .badDistance s)
  | some d =>
    if s.dstPos + s.L < d then .ended (raiseMalformed .badDistance s)
    else if s.L + s.M + margin ≤ s.dstCap - s.dstPos then fastCopy d s
    else slowCopy d s

end Sys2Proof.Machine
end

