-- ==== Sys2Proof/Machine/Lzvn.lean ====
section
/-! DEFINITION. The LZVN block decoder (44_lzvn.md): the copy sequences, the accounting, and the meaning of each opcode class.
`SA` and `DA` of the rules are `vnSA s` and `vnDA s`. -/

namespace Sys2Proof.Machine

/-- The stop reason of an LZVN step (R323); it lives only within the step. -/
inductive VnStop where
  | cont
  | src
  | dst
  | eos
  | invalidOp
  | invalidD
  deriving DecidableEq, Repr

/-- `Take(ns, nd)` (R325). -/
def vnTake (ns nd : Nat) (s : State) : State :=
  { s with
    srcPos := s.srcPos + ns
    vnPayRem := s.vnPayRem - ns
    dstPos := s.dstPos + nd
    vnRawRem := s.vnRawRem - nd }

/-- `VnLit(off, n)` and the `Take(off + n, n)` that follows it (R326, R341, R342), and the slop a copy leaves. -/
def vnLiterals (off n : Nat) (s : State) : Res Unit :=
  (copyFromSrc n (s.srcPos + off) s.dstPos s).bind fun _ s1 => .ok () (slop (vnTake (off + n) n s1))

/-- `VnMatch(n)` and the `Take(0, n)` that follows it (R327, R343), and the slop a copy leaves. -/
def vnMatch (n : Nat) (s : State) : Res Unit :=
  (copyFromDst s.vnD n s.dstPos s).bind fun _ s1 => .ok () (slop (vnTake 0 n s1))

/-- `CopyMatchOnly(M, DA)` (R343). -/
def copyMatchOnly (m da : Nat) (s : State) : Res VnStop :=
  if m ≤ da then (vnMatch m s).bind fun _ s1 => .ok .cont s1
  else (vnMatch da s).bind fun _ s1 => .ok .dst { s1 with vnL := 0, vnM := m - da }

/-- `CopyLiteral(opc_len, L, SA, DA)` (R342). -/
def copyLiteral (opcLen l sa da : Nat) (s : State) : Res VnStop :=
  if sa ≤ opcLen + l then .ok .src s
  else if l ≤ da then (vnLiterals opcLen l s).bind fun _ s1 => .ok .cont s1
  else (vnLiterals opcLen da s).bind fun _ s1 => .ok .dst { s1 with vnL := l - da, vnM := 0 }

/-- `CopyLM(opc_len, L, M, DA)` (R341): literals, the distance check, the match. -/
def copyLM (opcLen l m da : Nat) (s : State) : Res VnStop :=
  if l ≤ da then
    (vnLiterals opcLen l s).bind fun _ s1 =>
    if s1.dstPos < s1.vnD ∨ s1.vnD = 0 then .ok .invalidD s1 else copyMatchOnly m (da - l) s1
  else (vnLiterals opcLen da s).bind fun _ s1 => .ok .dst { s1 with vnL := l - da, vnM := m }

/-- `Account(r)` (R360). -/
def account (r : VnStop) (s : State) : Res Unit :=
  match r with
  | .cont => .ok () s
  | .invalidOp => .ended (raiseMalformed .lzvnUdef s)
  | .invalidD => .ended (raiseMalformed .lzvnDistance s)
  | .eos =>
    if s.vnPayRem = 0 ∧ s.vnRawRem = 0 then .ok () { s with blk := .none }
    else .ended (raiseMalformed .lzvnAccounting s)
  | .src =>
    if srcAvail s < s.vnPayRem then .ended (stopRun .srcEmpty s)
    else .ended (raiseMalformed .lzvnAccounting s)
  | .dst =>
    if s.vnRawRem = 0 then .ended (raiseMalformed .lzvnAccounting s)
    else .ended (stopRun .dstFull s)

/-- The end of an LZVN step (R323): the stop reason, accounted for. -/
def vnFinish (r : Res VnStop) : Res Unit := r.bind account

/-- `Resume(SA, DA)` (R324): the pending remainder of an interrupted opcode. -/
def vnResume (s : State) : Res VnStop :=
  let s1 := { s with vnL := 0, vnM := 0 }
  if s.vnM = 0 then copyLiteral 0 s.vnL (vnSA s) (vnDA s) s1
  else if s.vnL = 0 then copyMatchOnly s.vnM (vnDA s) s1
  else copyLM 0 s.vnL s.vnM (vnDA s) s1

/-! ## Opcodes -/

/-- `sml_d L, M, D` (R330). -/
def execSmlD (l m d : Nat) (s : State) : Host.Outcome State Fault Refusal :=
  (vnFinish (if vnSA s ≤ 2 + l then .ok .src s else copyLM 2 l m (vnDA s) { s with vnD := d })).out

/-- `med_d L, M, D` (R331). -/
def execMedD (l m d : Nat) (s : State) : Host.Outcome State Fault Refusal :=
  (vnFinish (if vnSA s ≤ 3 + l then .ok .src s else copyLM 3 l m (vnDA s) { s with vnD := d })).out

/-- `lrg_d L, M, D` (R332). -/
def execLrgD (l m d : Nat) (s : State) : Host.Outcome State Fault Refusal :=
  (vnFinish (if vnSA s ≤ 3 + l then .ok .src s else copyLM 3 l m (vnDA s) { s with vnD := d })).out

/-- `pre_d L, M` (R333): the distance stays. -/
def execPreD (l m : Nat) (s : State) : Host.Outcome State Fault Refusal :=
  (vnFinish (if vnSA s ≤ 1 + l then .ok .src s else copyLM 1 l m (vnDA s) s)).out

/-- A match-only opcode of `opcLen` bytes (R334, R335): consumed before the distance test. -/
def matchOpcode (opcLen m : Nat) (s : State) : Res VnStop :=
  if vnSA s ≤ opcLen then .ok .src s
  else
    let s1 := vnTake opcLen 0 s
    if s1.vnD = 0 then .ok .invalidD s1 else copyMatchOnly m (vnDA s) s1

/-- `sml_m M` (R334). -/
def execSmlM (m : Nat) (s : State) : Host.Outcome State Fault Refusal := (vnFinish (matchOpcode 1 m s)).out

/-- `lrg_m M` (R335). -/
def execLrgM (m : Nat) (s : State) : Host.Outcome State Fault Refusal := (vnFinish (matchOpcode 2 m s)).out

/-- `sml_l` (R336). -/
def execSmlL (l : Nat) (s : State) : Host.Outcome State Fault Refusal :=
  (vnFinish (copyLiteral 1 l (vnSA s) (vnDA s) s)).out

/-- `lrg_l` (R337). -/
def execLrgL (l : Nat) (s : State) : Host.Outcome State Fault Refusal :=
  (vnFinish (if vnSA s ≤ 2 then .ok .src s else copyLiteral 2 l (vnSA s) (vnDA s) s)).out

/-- `nop` (R338). -/
def execNop (_opc : Byte) (s : State) : Host.Outcome State Fault Refusal :=
  (vnFinish (if vnSA s ≤ 1 then .ok .src s else .ok .cont (vnTake 1 0 s))).out

/-- LZVN `eos` (R339): the check is `<`, and the 7 trailing bytes are not examined. -/
def execEos (s : State) : Host.Outcome State Fault Refusal :=
  (vnFinish (if vnSA s < 8 then .ok .src s else .ok .eos (vnTake 8 0 s))).out

/-- `udef` (R340): nothing is consumed, and the run ends Malformed. -/
def execUdef (_opc : Byte) (s : State) : Host.Outcome State Fault Refusal := (vnFinish (.ok .invalidOp s)).out

end Sys2Proof.Machine
end

