-- ==== Sys2Proof/Machine/Dispatch.lean ====
section
/-! DEFINITION. The meaning of every instruction: one arm per constructor of `Instr`, each one call of its meaning. -/

namespace Sys2Proof.Machine

def exec (i : Instr) (s : State) : Host.Outcome State Fault Refusal :=
  match i with
  | .bvxEos => Sys2Proof.Machine.execBvxEos s
  | .bvxRaw nRaw => Sys2Proof.Machine.execBvxRaw nRaw s
  | .bvxLzvn nRaw nPayload => Sys2Proof.Machine.execBvxLzvn nRaw nPayload s
  | .bvx1 h => Sys2Proof.Machine.execBvx1 h s
  | .bvx2 h => Sys2Proof.Machine.execBvx2 h s
  | .smlD l m d => Sys2Proof.Machine.execSmlD l m d s
  | .medD l m d => Sys2Proof.Machine.execMedD l m d s
  | .lrgD l m d => Sys2Proof.Machine.execLrgD l m d s
  | .preD l m => Sys2Proof.Machine.execPreD l m s
  | .smlM m => Sys2Proof.Machine.execSmlM m s
  | .lrgM m => Sys2Proof.Machine.execLrgM m s
  | .smlL l => Sys2Proof.Machine.execSmlL l s
  | .lrgL l => Sys2Proof.Machine.execLrgL l s
  | .nop opc => Sys2Proof.Machine.execNop opc s
  | .eos => Sys2Proof.Machine.execEos s
  | .udef opc => Sys2Proof.Machine.execUdef opc s
  | .f2 v => Sys2Proof.Machine.execF2 v s
  | .f3 v => Sys2Proof.Machine.execF3 v s
  | .f5 v => Sys2Proof.Machine.execF5 v s
  | .f8 v => Sys2Proof.Machine.execF8 v s
  | .f14 v => Sys2Proof.Machine.execF14 v s
  | .litSym => Sys2Proof.Machine.execLitSym s
  | .lVal => Sys2Proof.Machine.execLVal s
  | .mVal => Sys2Proof.Machine.execMVal s
  | .dVal => Sys2Proof.Machine.execDVal s

end Sys2Proof.Machine
end

