-- ==== Sys2Proof/Machine/Fetch.lean ====
section
/-! DEFINITION. What a running core does next (45_dispatcher.md R380, R398): the instruction it decodes at the place it parses,
or one of the sequencer's own actions between instructions. The steps are finer than those of 70_reset_and_hazards.md R491,
which allows that: a header, a frequency code, a literal, an L, M or D value is one step each. -/

namespace Sys2Proof.Machine

/-- The sequencer's own actions. -/
inductive Action where
  /-- `StepRAW()` (45_dispatcher.md R390). -/
  | rawStep
  /-- `Resume(SA, DA)` of an LZVN remainder (44_lzvn.md R324). -/
  | vnRemainder
  /-- `SourceCheck()` fails (43_lzfse_block.md R275). -/
  | sourceCheckFails
  /-- `EndBlock()` (R276). -/
  | blockEnd
  /-- `Execute()` (R279 to R282). -/
  | runExecute
  /-- The setup from the header check on (R270). -/
  | runSetup
  /-- `LmdInit(body)` (R272). -/
  | runLmdInit
  deriving DecidableEq, Repr

/-- What comes next. -/
inductive Fetched where
  | instr (i : Instr)
  | action (a : Action)
  | reject (r : Reject)
  | fault (f : Fault)
  deriving DecidableEq, Repr

/-- The decoder's answer over bytes of SRC. -/
def fetchDecoded (c : Ctx) (bs : Option (List Byte)) : Fetched :=
  match bs with
  | none => .fault .srcOob
  | some l =>
    match decode c l with
    | .instr i => .instr i
    | .reject r => .reject r

/-- The bytes at a block start: as many as the longest header needs and SRC has. -/
def blockBytes (s : State) : Option (List Byte) := srcBytes s (min fetchLen (srcAvail s)) s.srcPos

/-- The bytes at an LZVN opcode: at most an opcode and two operand bytes, none beyond the window (44_lzvn.md R321). -/
def opcodeBytes (s : State) : Option (List Byte) := srcBytes s (min 3 (vnSA s)) s.srcPos

/-- What comes next at a triplet step (43_lzfse_block.md R274). -/
def fetchTriplet (s : State) : Fetched :=
  if sourceShort s then .action .sourceCheckFails
  else if s.L = 0 ∧ s.M = 0 then if s.nRem = 0 then .action .blockEnd else .instr .lVal
  else .action .runExecute

/-- What comes next at a step boundary, by the current block (45_dispatcher.md R380). -/
def fetchReady (s : State) : Fetched :=
  match s.blk with
  | .none => fetchDecoded .block (blockBytes s)
  | .raw => .action .rawStep
  | .lzvn => if s.vnL ≠ 0 ∨ s.vnM ≠ 0 then .action .vnRemainder else fetchDecoded .lzvn (opcodeBytes s)
  | .v1 => fetchTriplet s
  | .v2 => fetchTriplet s

/-- What a running core does next. -/
def fetch (s : State) : Fetched :=
  match s.phase with
  | .ready => fetchReady s
  | .freqs =>
    match freqWindow s with
    | none => .fault .srcOob
    | some r => .instr (decodeFreq r.acc)
  | .setup => .action .runSetup
  | .lits => if s.litIdx < litGoal s then .instr .litSym else .action .runLmdInit
  | .mVal => .instr .mVal
  | .dVal => .instr .dVal
  | .copy => .action .runExecute

/-- The effect of a sequencer action. -/
def runAction (a : Action) (s : State) : Res Unit :=
  match a with
  | .rawStep => stepRaw s
  | .vnRemainder => vnFinish (vnResume s)
  | .sourceCheckFails => .ended (stopRun .srcEmpty s)
  | .blockEnd => .ok () (endBlock s)
  | .runExecute => execute s
  | .runSetup => setupStep s
  | .runLmdInit => lmdInit s

/-- The effect of a rejected fetch: a short header is SRC_EMPTY (45_dispatcher.md R381 to R385), an unknown magic is BAD_MAGIC
(R386), a short opcode is the stop reason `SRC` (44_lzvn.md R323). -/
def runReject (r : Reject) (s : State) : Res Unit :=
  match r with
  | .headerShort => .ended (stopRun .srcEmpty s)
  | .badMagic => .ended (raiseMalformed .badMagic s)
  | .opcodeShort => vnFinish (.ok .src s)

/-! ## Placing one instruction to be fetched -/

/-- SRC with `bs` from `p` on. -/
def placeSrc (s : State) (p : Nat) (bs : List Byte) : State :=
  { s with
    src := memLoad .src s.src p bs
    srcLen := max s.srcLen (p + bs.length) }

/-- The state in which the next step parses in context `c` at `src_pos`: running, at a step boundary, in the block that has
this context. A context without a place of its own in SRC is a block start. -/
def parseIn (c : Ctx) (len : Nat) (s : State) : State :=
  match c with
  | .lzvn =>
    { s with status := .running, phase := .ready, blk := .lzvn, vnL := 0, vnM := 0, vnPayRem := max s.vnPayRem len }
  | .freq =>
    { s with status := .running, phase := .freqs, freq := ⟨0, 0, s.srcPos, s.srcPos + len⟩ }
  | _ => { s with status := .running, phase := .ready, blk := .none }

/-- See `State.withFetchWord`. -/
def placeWord (s : State) (nbits w : Nat) : State :=
  parseIn (tableCtx nbits) fetchLen (placeSrc s s.srcPos (tableBytes nbits w))

end Sys2Proof.Machine
end

