-- ==== Sys2Proof/Machine/Step.lean ====
section
/-! DEFINITION. One step of the machine, and the placing of one instruction where the next step fetches it. -/

namespace Sys2Proof.Machine

/-- One step of the run loop (45_dispatcher.md R398): the decoded instruction is executed, or the sequencer acts. -/
def runStep (s : State) : Host.Outcome State Fault Refusal :=
  match fetch s with
  | .instr i => exec i s
  | .action a => (runAction a s).out
  | .reject r => (runReject r s).out
  | .fault f => .fault f

/-- One step: a running core takes a step of its run; between runs it takes the host's command or idles
(60_exceptions.md R447). -/
def step (s : State) : Host.Outcome State Fault Refusal :=
  if s.status = .running then runStep s else .next (idleStep s)

/-- `s` with the table word `w` of `nbits` bits, and zeros after it, at the place where the next step parses. -/
def State.withFetchWord (s : State) (nbits w : Nat) : State := placeWord s nbits w

end Sys2Proof.Machine
end

