-- ==== Sys2Proof/Machine/Run.lean ====
section
/-! DEFINITION. A whole run as the host sees it: the run loop (45_dispatcher.md R398), the end of a run (R399), the output ports
(10_state.md R44), and the public wrapper `decompress` over the core (R400). -/

namespace Sys2Proof.Machine

/-- The run loop: steps until the status leaves RUNNING or a fault stops it, for at most `fuel` steps (R398, R402). -/
def runLoop : Nat → State → Host.Outcome State Fault Refusal
  | 0, s => .next s
  | fuel + 1, s =>
    if s.status = .running then
      match step s with
      | .next s' => runLoop fuel s'
      | .fault f => .fault f
      | .refused r => .refused r
    else .next s

/-- Steps that a run of this model needs at most: the bound of R402 with the finer steps of this model. A block takes at most
1 header step, 360 frequency codes, 2 setup steps, 40000 literals, 4 steps for each of 10000 triplets and 1 end step; every
other step consumes a source byte, produces a destination byte, or ends the run (DEDUCED, log entry 2). -/
def fuelBound (srcLen dstCap : Nat) : Nat := (srcLen / 8 + 1) * 80400 + srcLen + dstCap + 1

/-- The output ports (R44): STATUS as its code (60_exceptions.md R423), CAUSE, DST_POS and SRC_POS. -/
structure Ports where
  status : Int
  cause : Option Cause
  dstPos : Nat
  srcPos : Nat
  deriving DecidableEq, Repr

/-- What the host reads on the ports; they are valid only between runs, and not before the first START (20_memory.md R84,
45_dispatcher.md R395, 70_reset_and_hazards.md R461). -/
def readPorts (s : State) : Option Ports :=
  if s.status = .running then none
  else
    match statusCode s.status with
    | none => none
    | some c => some ⟨c, s.cause, s.dstPos, s.srcPos⟩

/-- What the host reads at an offset of DST between runs, and not before the first START (20_memory.md R74, R84,
70_reset_and_hazards.md R461). -/
def readDst (s : State) (p : Nat) : Option Byte :=
  if s.status = .running ∨ s.status = .unstarted then none else dstRead s p

/-- The `n` bytes of DST from `p` on. -/
def dstBytes (s : State) : Nat → Nat → List (Option Byte)
  | 0, _ => []
  | n + 1, p => dstRead s p :: dstBytes s n (p + 1)

/-- The end of a run (R399): the observation of a final state, or a model fault with its cause and nothing else
(60_exceptions.md R428). -/
inductive RunEnd where
  | final (status : Status) (cause : Option Cause) (dstPos srcPos : Nat) (output : List (Option Byte))
  | unspec (cause : Cause)
  deriving DecidableEq, Repr

/-- The observation at the end of a run; none while it is not over, or none has begun. -/
def observe (o : Host.Outcome State Fault Refusal) : Option RunEnd :=
  match o with
  | .next s =>
    if s.status = .running ∨ s.status = .unstarted then none
    else if s.status = .unspec then s.cause.map .unspec
    else some (.final s.status s.cause s.dstPos s.srcPos (dstBytes s s.dstPos 0))
  | .fault f => some (.unspec f.cause)
  | .refused _ => none

/-- START, then the run (R396); a refused START is the state as it was. -/
def startRun (b : Buffers) (s : State) : Host.Outcome State Fault Refusal :=
  match acceptCommand (.start b) s with
  | .next s' => runLoop (fuelBound b.src.length b.dstCap) s'
  | .fault f => .fault f
  | .refused r => .refused r

/-- RESUME, then the run (R397). -/
def resumeRun (b : Buffers) (s : State) : Host.Outcome State Fault Refusal :=
  match acceptCommand (.resume b) s with
  | .next s' => runLoop (fuelBound b.src.length b.dstCap) s'
  | .fault f => .fault f
  | .refused r => .refused r

/-- The wrapper's return value after a run (R400); none after a fault, and none where no run was made because START was refused,
a case that R400 does not have (DESIGN CHOICE, log entry 17). -/
def wrapperResult (e : Option RunEnd) : Option Nat :=
  match e with
  | some (.final .ok _ n _ _) => some n
  | some (.final .dstFull _ n _ _) => some n
  | some (.final .srcEmpty _ _ _ _) => some 0
  | some (.final .malformed _ _ _ _) => some 0
  | _ => none

/-- `decompress(DST, SRC) -> bytes_written` (R400) over a core with parameters `cfg` (00_scope.md R9): with an empty buffer the
core is not started. A buffer of `2^64` bytes or more has START refused (70_reset_and_hazards.md R471), and then there is no
value (DESIGN CHOICE, log entry 17). -/
def decompress (cfg : Config) (src : List Byte) (dstCap : Nat) : Option Nat :=
  if dstCap = 0 ∨ src = [] then some 0
  else wrapperResult (observe (startRun ⟨src, dstCap, true, true⟩ (State.beforeStart cfg)))

end Sys2Proof.Machine
end

