-- ==== Sys2Proof/Safety.lean ====
section
/-! DEFINITION. What counts as a good state and a safe run: the invariants that the rules promise of every state a run reaches,
in the terms the statements use. -/

namespace Sys2Proof.Machine

/-- Every DST byte below `dst_pos` has been written in this run (20_memory.md R73). -/
def DstFilled (s : State) : Prop := ∀ p < s.dstPos, memRead .dst s.dst p ≠ none

/-- The three memories are canonical and lie in their buffers, and DST holds exactly the bytes below `dst_pos` (20_memory.md
R70, R73, R74). -/
def MemInv (s : State) : Prop :=
  Memory.wf .src s.src = true ∧ Memory.wf .dst s.dst = true ∧ Memory.wf .lit s.lit = true ∧
  (∀ c ∈ s.src, c.1 < s.srcLen) ∧ (∀ c ∈ s.dst, c.1 < s.dstPos) ∧ (∀ c ∈ s.lit, c.1 < litBufSize) ∧
  DstFilled s

/-- No cursor passes its buffer (10_state.md R33, R34). -/
def CursorInv (s : State) : Prop := s.srcPos ≤ s.srcLen ∧ s.dstPos ≤ s.dstCap

/-- A cause is recorded exactly when the run ended MALFORMED or UNSPEC (60_exceptions.md R422). -/
def CauseInv (s : State) : Prop := (s.cause ≠ none) ↔ (s.status = .malformed ∨ s.status = .unspec)

/-- The run is on, or has stopped so that RESUME can go on with it (R420). -/
def Live (s : State) : Prop := s.status = .running ∨ s.status = .srcEmpty ∨ s.status = .dstFull

/-- A run that has stopped so that RESUME can go on with it is at a step boundary (60_exceptions.md R432). -/
def StopInv (s : State) : Prop := (s.status = .srcEmpty ∨ s.status = .dstFull) → s.phase = .ready

/-- The LZVN distance and the pending literals of an LZVN block lie in what is there (44_lzvn.md R344). -/
def LzvnInv (s : State) : Prop :=
  s.blk = .lzvn →
    ((s.vnL = 0 ∨ s.vnM = 0) → s.vnD ≤ s.dstPos) ∧
    ((s.vnL = 0 ∧ s.vnM ≠ 0) → s.vnD ≠ 0) ∧
    (s.vnL ≠ 0 → s.vnL < vnSA s)

/-- A bit reader's window: at most 63 valid bits, nothing above them, and a position in SRC (40_bitreader.md R150). -/
def ReaderInv (r : BitReader) (srcLen : Nat) : Prop := r.nbits ≤ 63 ∧ r.acc < 2 ^ r.nbits ∧ r.pos ≤ srcLen

/-- The LZFSE registers: the distance is NONE or positive (10_state.md R37), no pending literal lies past LIT, the L/M/D reader
is sound, and a triplet being decoded belongs to a V1 or V2 block whose payload is in SRC (43_lzfse_block.md R275). -/
def LzfseInv (s : State) : Prop :=
  s.D ≠ some 0 ∧ s.litPos + s.L ≤ litBufSize ∧
  ((s.phase = .mVal ∨ s.phase = .dVal) → s.litPos + s.lv ≤ litBufSize) ∧
  ((s.phase = .mVal ∨ s.phase = .dVal ∨ s.phase = .copy) → (s.blk = .v1 ∨ s.blk = .v2) ∧ sourceShort s = false) ∧
  ReaderInv s.lmd s.srcLen

/-- The setup in progress: the frequency stream and the body lie in SRC, the header passed its check, and the literal reader
has the bits of the lanes still to come in its group of four (43_lzfse_block.md R270, R271). -/
def SetupInv (s : State) : Prop :=
  (s.phase = .freqs → s.freq.qend ≤ s.srcLen) ∧
  (s.phase = .lits →
    s.hdr.nLiterals ≤ maxLiterals ∧ bodyPos s + s.hdr.nLitPayload + s.hdr.nLmdPayload ≤ s.srcLen ∧
    ReaderInv s.litrd s.srcLen ∧
    (s.litIdx % 4 ≠ 0 → 56 ≤ s.litrd.nbits + s.cfg.litLog.val * (s.litIdx % 4)))

/-- No table entry asks for more bits than its state count and value table allow (40_bitreader.md R157). -/
def TableInv (s : State) : Prop :=
  (∀ e ∈ s.tLit, e.nbits ≤ s.cfg.litLog.val) ∧ (∀ e ∈ s.tL, e.totalBits ≤ s.cfg.lBits) ∧
  (∀ e ∈ s.tM, e.totalBits ≤ s.cfg.mBits) ∧ (∀ e ∈ s.tD, e.totalBits ≤ s.cfg.dBits)

/-- The invariant of the machine, for all parameters that fit the core. -/
def Inv (s : State) : Prop :=
  s.cfg.Wf ∧ MemInv s ∧ CursorInv s ∧ CauseInv s ∧ StopInv s ∧
  (Live s → LzvnInv s ∧ LzfseInv s ∧ SetupInv s ∧ TableInv s)

/-- A value table's entries: every assigned one keeps its next state below `n` and its value below `top` (41_fse.md R185,
R186). -/
def ValTableInRange (n top : Nat) (t : List ValEntry) : Prop :=
  t.length = n ∧
  ∀ e ∈ t, e.vbits ≤ e.totalBits ∧ (e.assigned = true →
    e.delta + 2 ^ (e.totalBits - e.vbits) ≤ n ∧ e.vbase + 2 ^ e.vbits ≤ top)

/-- The symbol table's entries (10_state.md R39, 41_fse.md R185). -/
def SymTableInRange (n : Nat) (t : List SymEntry) : Prop :=
  t.length = n ∧ ∀ e ∈ t, e.sym < 256 ∧ (e.assigned = true → e.delta + 2 ^ e.nbits ≤ n)

/-- The header of the block in setup: the widths of its fields, and after the check its bounds (42_header.md R220, R245). -/
def HeaderInRange (s : State) : Prop :=
  ((s.phase = .freqs ∨ s.phase = .setup ∨ s.phase = .lits) → s.hdr.nLmdPayload < 2 ^ 32) ∧
  (s.phase = .setup → s.hdr.litFreq.length ≤ symLit) ∧
  (s.phase = .lits →
    s.hdr.nMatches ≤ maxMatches ∧ s.hdr.lState < s.cfg.nL ∧ s.hdr.mState < s.cfg.nM ∧ s.hdr.dState < s.cfg.nD)

/-- Every register of 10_state.md R35 to R39 lies in the range given there. The ranges of `L`, `M` and `D`, of the model's `lv`
and `mv`, and of the entries of the value tables are taken from the tables of the parameters, as R37 asks, and not from the
numbers that R37 prints. -/
def InRange (s : State) : Prop :=
  s.cfg.Wf ∧
  s.rawRem < 2 ^ 32 ∧ s.vnRawRem < 2 ^ 32 ∧ s.vnPayRem < 2 ^ 32 ∧ s.vnD ≤ 65535 ∧ s.vnL ≤ 271 ∧ s.vnM ≤ 271 ∧
  s.nRem ≤ maxMatches ∧ s.litPos ≤ litBufSize ∧ s.lmdPay < 2 ^ 32 ∧ s.lSt < s.cfg.nL ∧ s.mSt < s.cfg.nM ∧ s.dSt < s.cfg.nD ∧
  s.L < s.cfg.lTop ∧ s.M < s.cfg.mTop ∧ s.lv < s.cfg.lTop ∧ s.mv < s.cfg.mTop ∧
  (∀ d, s.D = some d → 1 ≤ d ∧ d < s.cfg.dTop) ∧
  SymTableInRange s.cfg.nLit s.tLit ∧ ValTableInRange s.cfg.nL s.cfg.lTop s.tL ∧
  ValTableInRange s.cfg.nM s.cfg.mTop s.tM ∧ ValTableInRange s.cfg.nD s.cfg.dTop s.tD ∧ HeaderInRange s

/-- Two states that differ at most in which draw the unspecified bytes of DST come from. -/
def SameButDraws (s t : State) : Prop := { s with draws := t.draws } = t

/-- The faults that the rules make unreachable (60_exceptions.md R428). -/
def Fault.unreachable : Fault → Bool
  | .unassignedSlot => false
  | .staleLiteral => false
  | .pullUnderflow => true
  | .srcOob => true
  | .dstOob => true
  | .litOob => true

/-- A step that is safe in this sense: it does not end in a fault that the rules make unreachable. -/
def SafeStep (s : State) : Prop := ∀ f, step s = .fault f → f.unreachable = false

/-! ## Terms of the statements -/

/-- `i` is a literal-and-match opcode of `k` bytes with literal length `l`, match length `m` and distance `d` (44_lzvn.md R330
to R333); the distance of `pre_d` is the current one. -/
def IsLiteralMatch (s : State) (i : Instr) (k l m d : Nat) : Prop :=
  (i = .smlD l m d ∧ k = 2) ∨ (i = .medD l m d ∧ k = 3) ∨ (i = .lrgD l m d ∧ k = 3) ∨
  (i = .preD l m ∧ k = 1 ∧ d = s.vnD)

/-- `i` is a match-only opcode of `k` bytes (R334, R335). -/
def IsMatchOnly (i : Instr) (k m : Nat) : Prop := (i = .smlM m ∧ k = 1) ∨ (i = .lrgM m ∧ k = 2)

/-- `i` is a literal-only opcode of `k` bytes (R336, R337). -/
def IsLiteralOnly (i : Instr) (k l : Nat) : Prop := (i = .smlL l ∧ k = 1) ∨ (i = .lrgL l ∧ k = 2)

/-- `i` is the frequency code of `n` bits for the count `v` (30_encoding.md R123). -/
def IsFreqCode (i : Instr) (n v : Nat) : Prop :=
  (i = .f2 v ∧ n = 2) ∨ (i = .f3 v ∧ n = 3) ∨ (i = .f5 v ∧ n = 5) ∨ (i = .f8 v ∧ n = 8) ∨ (i = .f14 v ∧ n = 14)

/-- `new` is the DST content `old` with `l` bytes `lit 0, lit 1, …` and then `m` match bytes at distance `d` appended at `p`:
every byte below `p` reads as before, a match byte reads as the byte `d` before it, and no byte above the appended ones has a
value (20_memory.md R78, R80). -/
def Appended (old new : Memory) (p l m d : Nat) (lit : Nat → Option Byte) : Prop :=
  (∀ q < p, memRead .dst new q = memRead .dst old q) ∧
  (∀ j < l, memRead .dst new (p + j) = lit j) ∧
  (∀ j < m, memRead .dst new (p + l + j) = memRead .dst new (p + l + j - d)) ∧
  (∀ q, p + l + m ≤ q → memRead .dst new q = none)

/-- A flush and then a pull of `n` bits: how the passes take the bits of one value (70_reset_and_hazards.md R480). -/
def flushPull (w : ReaderId) (n : Nat) (s : State) : Res Nat := (flush w s).bind fun _ t => pull w n t

/-- The running machine comes to `Execute()`: a triplet has just been decoded, or is pending (43_lzfse_block.md R274). -/
def AtExecute (s : State) : Prop :=
  s.status = .running ∧
  (s.phase = .copy ∨
    (s.phase = .ready ∧ (s.blk = .v1 ∨ s.blk = .v2) ∧ sourceShort s = false ∧ (s.L ≠ 0 ∨ s.M ≠ 0)))

/-- Two outcomes that differ at most in which draw the unspecified bytes of DST come from. -/
def Alike (a b : Host.Outcome State Fault Refusal) : Prop :=
  match a, b with
  | .next s, .next t => SameButDraws s t
  | .fault f, .fault g => f = g
  | .refused r, .refused q => r = q
  | _, _ => False

end Sys2Proof.Machine
end

