-- ==== Sys2Proof/Certificates/Slice0/Obligations.lean ====
section
/-! DEFINITION. The statements about the model. Each docstring names the rules of spec/ that it rests on. -/

section Statements
open Sys2Proof Sys2Proof.Machine

/-! ## Encoding -/

/-- Words written out from the encodings of 30_encoding.md R101 to R123 decode to the instructions they stand for. -/
def Obligations.WrittenWordsDecode : Prop :=
  decode .block [0x62#8, 0x76#8, 0x78#8, 0x24#8] = .instr .bvxEos ∧
  decode .block [0x62#8, 0x76#8, 0x78#8, 0x2D#8, 0x05#8, 0#8, 0#8, 0#8] = .instr (.bvxRaw 5) ∧
  decode .block [0x62#8, 0x76#8, 0x78#8, 0x6E#8, 0x10#8, 0#8, 0#8, 0#8, 0x20#8, 0x01#8, 0#8, 0#8] =
    .instr (.bvxLzvn 16 288) ∧
  decode .lzvn [0x30#8, 0x03#8] = .instr (.smlD 0 9 3) ∧
  decode .lzvn [0xA0#8, 0x0D#8, 0x00#8] = .instr (.medD 0 4 3) ∧
  decode .lzvn [0x47#8, 0x00#8, 0x01#8] = .instr (.lrgD 1 3 256) ∧
  decode .lzvn [0x46#8] = .instr (.preD 1 3) ∧
  decode .lzvn [0xF5#8] = .instr (.smlM 5) ∧
  decode .lzvn [0xF0#8, 0x04#8] = .instr (.lrgM 20) ∧
  decode .lzvn [0xE3#8] = .instr (.smlL 3) ∧
  decode .lzvn [0xE0#8, 0x00#8] = .instr (.lrgL 16) ∧
  decode .lzvn [0x16#8] = .instr (.nop 0x16#8) ∧
  decode .lzvn [0x06#8] = .instr .eos ∧
  decode .lzvn [0x70#8] = .instr (.udef 0x70#8) ∧
  decodeFreq 2 = .f2 1 ∧ decodeFreq 5 = .f3 3 ∧ decodeFreq 19 = .f5 6 ∧ decodeFreq 247 = .f8 23 ∧
  decodeFreq 16383 = .f14 1047

/-- Decode and encode agree on every LZVN opcode, whatever bytes follow it (R111 to R121). -/
def Obligations.LzvnDecodesItsEncoding : Prop :=
  ∀ (i : Instr) (rest : List Byte), i.ctx = .lzvn → i.wf = true → decode .lzvn (encode i ++ rest) = .instr i

/-- Decode and encode agree on every block header, whatever bytes follow it (R101 to R108). -/
def Obligations.BlockHeaderDecodesItsEncoding : Prop :=
  ∀ (i : Instr) (rest : List Byte), i.ctx = .block → i.wf = true → decode .block (encode i ++ rest) = .instr i

/-- Decode and encode agree on every frequency code, whatever bits follow it, and each code has its class's length
(R123, 42_header.md R240, R241). -/
def Obligations.FrequencyCodeDecodesItsEncoding : Prop :=
  ∀ (i : Instr) (n v x : Nat), IsFreqCode i n v → i.wf = true →
    decodeFreq (leNat (encode i) + 2 ^ n * x) = i ∧ freqLen (leNat (encode i) + 2 ^ n * x) = n ∧
      leNat (encode i) < 2 ^ n

/-- Every opcode byte with every pair of bytes after it decodes to a well-formed opcode, and that opcode encodes to the same
bytes; only the trailing bytes of `eos` are lost, which are not examined (R110 to R121). -/
def Obligations.DecodedOpcodeReencodes : Prop :=
  ∀ opc b1 b2 : Byte,
    let i := decodeOpcode opc (leNat [b1]) (leNat [b1, b2])
    i.ctx = .lzvn ∧ i.wf = true ∧
      (if opc = 0x06#8 then i = .eos else encode i = [opc, b1, b2].take (opClass opc.toNat).opcLen)

/-! ## The step and its fetch -/

/-- When the bytes at the place the core parses decode to an instruction, the step is that instruction's meaning; nothing is
added around it (45_dispatcher.md R380, R398; the finer steps are log entry 2). -/
def Obligations.StepRunsTheDecodedInstruction : Prop :=
  ∀ s : State, s.status = .running →
    (∀ bs i, s.phase = .ready → s.blk = .none → blockBytes s = some bs → decode .block bs = .instr i →
      step s = exec i s) ∧
    (∀ bs i, s.phase = .ready → s.blk = .lzvn → s.vnL = 0 → s.vnM = 0 → opcodeBytes s = some bs →
      decode .lzvn bs = .instr i → step s = exec i s) ∧
    (∀ r, s.phase = .freqs → freqWindow s = some r → step s = exec (decodeFreq r.acc) s) ∧
    (s.phase = .lits → s.litIdx < litGoal s → step s = exec .litSym s) ∧
    (s.phase = .ready → (s.blk = .v1 ∨ s.blk = .v2) → sourceShort s = false → s.L = 0 → s.M = 0 → s.nRem ≠ 0 →
      step s = exec .lVal s) ∧
    (s.phase = .mVal → step s = exec .mVal s) ∧
    (s.phase = .dVal → step s = exec .dVal s)

/-- A well-formed block header or LZVN opcode whose encoding stands in SRC at `src_pos`, inside the window, is what the next
step runs (R381, 44_lzvn.md R323). -/
def Obligations.EncodedInstructionInSourceRuns : Prop :=
  ∀ (s : State) (i : Instr), i.wf = true → s.status = .running → s.phase = .ready →
    srcBytes s (encode i).length s.srcPos = some (encode i) →
    ((i.ctx = .block ∧ s.blk = .none ∧ s.srcPos + (encode i).length ≤ s.srcLen) ∨
      (i.ctx = .lzvn ∧ s.blk = .lzvn ∧ s.vnL = 0 ∧ s.vnM = 0 ∧ (encode i).length ≤ vnSA s)) →
    step s = exec i s

/-- At a block start, fewer than 4 bytes stop the run with SRC_EMPTY, an unknown magic raises BAD_MAGIC, and a known magic
with a short header stops with SRC_EMPTY; nothing else is written (45_dispatcher.md R381, R383 to R387). -/
def Obligations.BlockStartStops : Prop :=
  ∀ s : State, s.status = .running → s.phase = .ready → s.blk = .none →
    (srcAvail s < 4 → step s = .next { s with status := .srcEmpty }) ∧
    (∀ m, 4 ≤ srcAvail s → srcRead s s.srcPos 4 = some m →
      (m ≠ magicEos → m ≠ magicRaw → m ≠ magicLzvn → m ≠ magicV1 → m ≠ magicV2 →
        step s = .next { s with status := .malformed, cause := some .badMagic }) ∧
      ((m = magicRaw ∧ srcAvail s < 8) ∨ (m = magicLzvn ∧ srcAvail s < 12) ∨ (m = magicV1 ∧ srcAvail s < 770) ∨
        (m = magicV2 ∧ srcAvail s < 32) →
        step s = .next { s with status := .srcEmpty }))

/-! ## Block headers -/

/-- `bvx$` consumes its magic, records the end of the stream and stops the run with OK (R382). -/
def Obligations.EndOfStreamBlockEndsTheRun : Prop :=
  ∀ s : State, 4 ≤ srcAvail s →
    exec .bvxEos s = .next { s with srcPos := s.srcPos + 4, eosSeen := true, status := .ok, phase := .ready }

/-- `bvx-` starts a raw copy of its count (R383); `bvxn` starts an LZVN block with its two counts and no distance and no
remainder (R384, 44_lzvn.md R320). Too few header bytes stop either with SRC_EMPTY. -/
def Obligations.RawAndLzvnHeadersStartABlock : Prop :=
  ∀ (s : State) (n p : Nat),
    (8 ≤ srcAvail s → exec (.bvxRaw n) s = .next { s with rawRem := n, srcPos := s.srcPos + 8, blk := .raw }) ∧
    (srcAvail s < 8 → exec (.bvxRaw n) s = .next { s with status := .srcEmpty, phase := .ready }) ∧
    (12 ≤ srcAvail s →
      exec (.bvxLzvn n p) s = .next
        { s with
          vnRawRem := n, vnPayRem := p, vnD := 0, vnL := 0, vnM := 0, srcPos := s.srcPos + 12, blk := .lzvn }) ∧
    (srcAvail s < 12 → exec (.bvxLzvn n p) s = .next { s with status := .srcEmpty, phase := .ready })

/-- `bvx1` fills the header record and goes on to the setup; no register but the transients of the setup is written
(42_header.md R221, R222). A V1 header in SRC gives the record whose fields are read at the offsets of 30_encoding.md
R105 (42_header.md R220, R222). -/
def Obligations.V1HeaderStartsASetup : Prop :=
  (∀ (s : State) (h : V1Header),
      (770 ≤ srcAvail s →
        exec (.bvx1 h) s = .next { s with magic := magicV1, hdr := headerOfV1 h, phase := .setup }) ∧
      (srcAvail s < 770 → exec (.bvx1 h) s = .next { s with status := .srcEmpty, phase := .ready })) ∧
  (∀ s : State, s.status = .running → s.phase = .ready → s.blk = .none → 770 ≤ srcAvail s →
      srcRead s s.srcPos 4 = some magicV1 →
      ∃ h : Header, step s = .next { s with magic := magicV1, hdr := h, phase := .setup } ∧
        srcRead s (s.srcPos + 4) 4 = some h.nRaw ∧ srcRead s (s.srcPos + 8) 4 = some h.nPayload ∧
        srcRead s (s.srcPos + 12) 4 = some h.nLiterals ∧ srcRead s (s.srcPos + 16) 4 = some h.nMatches ∧
        srcRead s (s.srcPos + 20) 4 = some h.nLitPayload ∧ srcRead s (s.srcPos + 24) 4 = some h.nLmdPayload ∧
        (srcRead s (s.srcPos + 28) 4).map sext32 = some h.literalBits ∧
        (∀ k < 4, srcRead s (s.srcPos + 32 + 2 * k) 2 = some (lane h.litState k)) ∧
        (srcRead s (s.srcPos + 40) 4).map sext32 = some h.lmdBits ∧
        srcRead s (s.srcPos + 44) 2 = some h.lState ∧ srcRead s (s.srcPos + 46) 2 = some h.mState ∧
        srcRead s (s.srcPos + 48) 2 = some h.dState ∧
        h.lFreq.length = 20 ∧ (∀ k < 20, srcRead s (s.srcPos + 50 + 2 * k) 2 = h.lFreq[k]?) ∧
        h.mFreq.length = 20 ∧ (∀ k < 20, srcRead s (s.srcPos + 90 + 2 * k) 2 = h.mFreq[k]?) ∧
        h.dFreq.length = 64 ∧ (∀ k < 64, srcRead s (s.srcPos + 130 + 2 * k) 2 = h.dFreq[k]?) ∧
        h.litFreq.length = 256 ∧ (∀ k < 256, srcRead s (s.srcPos + 258 + 2 * k) 2 = h.litFreq[k]?) ∧
        h.hdrLen = 770)

/-- `bvx2` fills the header record and goes on to the frequency stream, or to the setup with 360 zero counts when the header
has no stream; a header length below 32 is Malformed and a header that is not all there stops with SRC_EMPTY
(42_header.md R224, R225, R239). A V2 fixed part in SRC gives the record whose fields are those of the three packed
words (30_encoding.md R108, 42_header.md R220, R224). That `headerOfV2` leaves the frequency
lists empty until they are decoded is the model's choice (log entry 14). -/
def Obligations.V2HeaderStartsASetup : Prop :=
  (∀ (s : State) (h : V2Header),
      (srcAvail s < 32 → exec (.bvx2 h) s = .next { s with status := .srcEmpty, phase := .ready }) ∧
      (32 ≤ srcAvail s →
        (h.headerSize < 32 →
          exec (.bvx2 h) s = .next
            { s with magic := magicV2, hdr := headerOfV2 h, status := .malformed, cause := some .hdrV2Freq }) ∧
        (32 ≤ h.headerSize → srcAvail s < h.headerSize →
          exec (.bvx2 h) s = .next { s with status := .srcEmpty, phase := .ready }) ∧
        (h.headerSize = 32 →
          exec (.bvx2 h) s = .next
            { s with
              magic := magicV2, hdr := withFreqs (headerOfV2 h) (List.replicate 360 0), phase := .setup }) ∧
        (32 < h.headerSize → h.headerSize ≤ srcAvail s →
          exec (.bvx2 h) s = .next
            { s with
              magic := magicV2, hdr := headerOfV2 h, freqs := [],
              freq := ⟨0, 0, s.srcPos + 32, s.srcPos + h.headerSize⟩, phase := .freqs }))) ∧
  (∀ (s : State) (v0 v1 v2 : Nat), s.status = .running → s.phase = .ready → s.blk = .none → 32 ≤ srcAvail s →
      srcRead s s.srcPos 4 = some magicV2 → srcRead s (s.srcPos + 8) 8 = some v0 →
      srcRead s (s.srcPos + 16) 8 = some v1 → srcRead s (s.srcPos + 24) 8 = some v2 →
      32 ≤ field v2 0 32 → field v2 0 32 ≤ srcAvail s →
      ∃ t : State, step s = .next t ∧
        t = { s with magic := magicV2, hdr := t.hdr, freqs := t.freqs, freq := t.freq, phase := t.phase } ∧
        t.phase = (if field v2 0 32 = 32 then .setup else .freqs) ∧
        srcRead s (s.srcPos + 4) 4 = some t.hdr.nRaw ∧
        t.hdr.nPayload = field v0 20 20 + field v1 40 20 ∧
        t.hdr.nLiterals = field v0 0 20 ∧ t.hdr.nLitPayload = field v0 20 20 ∧ t.hdr.nMatches = field v0 40 20 ∧
        t.hdr.literalBits = (field v0 60 3 : Int) - 7 ∧
        (∀ k < 4, lane t.hdr.litState k = field v1 (10 * k) 10) ∧
        t.hdr.nLmdPayload = field v1 40 20 ∧ t.hdr.lmdBits = (field v1 60 3 : Int) - 7 ∧
        t.hdr.hdrLen = field v2 0 32 ∧ t.hdr.lState = field v2 32 10 ∧ t.hdr.mState = field v2 42 10 ∧
        t.hdr.dState = field v2 52 10)

/-! ## RAW -/

/-- One step of a RAW block: it ends, stops, or copies as many bytes as the block, SRC and DST allow (45_dispatcher.md
R390). -/
def Obligations.RawBlockStep : Prop :=
  ∀ s : State, s.status = .running → s.phase = .ready → s.blk = .raw →
    (s.rawRem = 0 → step s = .next { s with blk := .none }) ∧
    (s.rawRem ≠ 0 → srcAvail s = 0 → step s = .next { s with status := .srcEmpty }) ∧
    (s.rawRem ≠ 0 → srcAvail s ≠ 0 → s.dstCap - s.dstPos = 0 → step s = .next { s with status := .dstFull }) ∧
    (∀ n, s.rawRem ≠ 0 → srcAvail s ≠ 0 → s.dstCap - s.dstPos ≠ 0 →
      n = min s.rawRem (min (srcAvail s) (s.dstCap - s.dstPos)) →
      ∃ mem k, step s = .next
          { s with
            srcPos := s.srcPos + n, dstPos := s.dstPos + n, rawRem := s.rawRem - n, dst := mem, draws := k } ∧
        Appended s.dst mem s.dstPos n 0 0 (fun j => srcByte s (s.srcPos + j)))

/-! ## LZVN -/

/-- `sml_d`, `med_d`, `lrg_d` and `pre_d` complete when their literals and their match fit: the literal bytes after the
opcode and then the match are appended to DST, and nothing else but the cursors, the counts and the distance changes
(44_lzvn.md R325 to R333, R341, R343). `SA` and `DA` are the windows of R321; that DST is written below `dst_pos` is
part of the invariant. -/
def Obligations.LiteralAndMatchOpcodesComplete : Prop :=
  ∀ (s : State) (i : Instr) (k l m d : Nat), IsLiteralMatch s i k l m d → DstFilled s →
    k + l < vnSA s → l + m ≤ vnDA s → d ≠ 0 → d ≤ s.dstPos + l →
    ∃ mem n, exec i s = .next
        { s with
          srcPos := s.srcPos + (k + l), vnPayRem := s.vnPayRem - (k + l), dstPos := s.dstPos + l + m,
          vnRawRem := s.vnRawRem - l - m, vnD := d, dst := mem, draws := n } ∧
      Appended s.dst mem s.dstPos l m d (fun j => srcByte s (s.srcPos + k + j))

/-- `sml_m` and `lrg_m` complete when their match fits: the opcode is consumed and the match at the current distance is
appended (R334, R335, R343). -/
def Obligations.MatchOpcodesComplete : Prop :=
  ∀ (s : State) (i : Instr) (k m : Nat), IsMatchOnly i k m → DstFilled s →
    k < vnSA s → m ≤ vnDA s → s.vnD ≠ 0 → s.vnD ≤ s.dstPos →
    ∃ mem n, exec i s = .next
        { s with
          srcPos := s.srcPos + k, vnPayRem := s.vnPayRem - k, dstPos := s.dstPos + m,
          vnRawRem := s.vnRawRem - m, dst := mem, draws := n } ∧
      Appended s.dst mem s.dstPos 0 m s.vnD (fun _ => none)

/-- `sml_l` and `lrg_l` complete when their literals fit: the opcode and its literals are consumed and the literals appended;
the distance stays (R336, R337, R342). -/
def Obligations.LiteralOpcodesComplete : Prop :=
  ∀ (s : State) (i : Instr) (k l : Nat), IsLiteralOnly i k l → k + l < vnSA s → l ≤ vnDA s →
    ∃ mem n, exec i s = .next
        { s with
          srcPos := s.srcPos + (k + l), vnPayRem := s.vnPayRem - (k + l), dstPos := s.dstPos + l,
          vnRawRem := s.vnRawRem - l, dst := mem, draws := n } ∧
      Appended s.dst mem s.dstPos l 0 0 (fun j => srcByte s (s.srcPos + k + j))

/-- `nop` consumes one byte and changes nothing else (R338, R119). -/
def Obligations.NopConsumesOneByte : Prop :=
  ∀ (s : State) (opc : Byte), 1 < vnSA s →
    exec (.nop opc) s = .next { s with srcPos := s.srcPos + 1, vnPayRem := s.vnPayRem - 1 }

/-- LZVN `eos` consumes 8 bytes; it ends the block when both declared counts are then zero, and raises LZVN_ACCOUNTING
otherwise (R339, R360). -/
def Obligations.LzvnEndOfStream : Prop :=
  ∀ s : State, 8 ≤ vnSA s →
    (s.vnPayRem = 8 → s.vnRawRem = 0 →
      exec .eos s = .next { s with srcPos := s.srcPos + 8, vnPayRem := 0, blk := .none }) ∧
    (¬ (s.vnPayRem = 8 ∧ s.vnRawRem = 0) →
      exec .eos s = .next
        { s with
          srcPos := s.srcPos + 8, vnPayRem := s.vnPayRem - 8, status := .malformed,
          cause := some .lzvnAccounting })

/-- An undefined opcode consumes nothing and raises LZVN_UDEF, whatever the windows are (R121, R340). -/
def Obligations.UndefinedOpcodeRaises : Prop :=
  ∀ (s : State) (opc : Byte),
    exec (.udef opc) s = .next { s with status := .malformed, cause := some .lzvnUdef }

/-- An opcode whose source window is too short writes nothing: SRC_EMPTY when SRC ends inside the declared payload,
LZVN_ACCOUNTING when the payload ends first (R330 to R339, R342, R360). The same holds of a step whose window is empty or
ends inside the opcode and its operand bytes, so that no instruction can be decoded (R323, R330 to R337). -/
def Obligations.ShortSourceWindowStops : Prop :=
  (∀ (s : State) (i : Instr),
    ((∃ k l m d, IsLiteralMatch s i k l m d ∧ vnSA s ≤ k + l) ∨ (∃ k m, IsMatchOnly i k m ∧ vnSA s ≤ k) ∨
      (∃ k l, IsLiteralOnly i k l ∧ vnSA s ≤ k + l) ∨ (∃ opc, i = .nop opc ∧ vnSA s ≤ 1) ∨
      (i = .eos ∧ vnSA s < 8)) →
    (srcAvail s < s.vnPayRem → exec i s = .next { s with status := .srcEmpty, phase := .ready }) ∧
    (s.vnPayRem ≤ srcAvail s → exec i s = .next { s with status := .malformed, cause := some .lzvnAccounting })) ∧
  (∀ s : State, s.status = .running → s.phase = .ready → s.blk = .lzvn → s.vnL = 0 → s.vnM = 0 →
    (vnSA s = 0 ∨ ∃ opc, srcByte s s.srcPos = some opc ∧ vnSA s < (opClass opc.toNat).readLen) →
    (srcAvail s < s.vnPayRem → step s = .next { s with status := .srcEmpty }) ∧
    (s.vnPayRem ≤ srcAvail s → step s = .next { s with status := .malformed, cause := some .lzvnAccounting }))

/-- A match at distance 0 or at a distance above the bytes produced raises LZVN_DISTANCE: a literal-and-match opcode after
its literals are appended, a match-only opcode after its bytes are consumed (R334, R335, R341, R360). -/
def Obligations.LzvnDistanceCheckRaises : Prop :=
  (∀ (s : State) (i : Instr) (k l m d : Nat), IsLiteralMatch s i k l m d → k + l < vnSA s → l ≤ vnDA s →
    (d = 0 ∨ s.dstPos + l < d) →
    ∃ mem n, exec i s = .next
        { s with
          srcPos := s.srcPos + (k + l), vnPayRem := s.vnPayRem - (k + l), dstPos := s.dstPos + l,
          vnRawRem := s.vnRawRem - l, vnD := d, dst := mem, draws := n, status := .malformed,
          cause := some .lzvnDistance } ∧
      Appended s.dst mem s.dstPos l 0 0 (fun j => srcByte s (s.srcPos + k + j))) ∧
  (∀ (s : State) (i : Instr) (k m : Nat), IsMatchOnly i k m → k < vnSA s → s.vnD = 0 →
    exec i s = .next
      { s with
        srcPos := s.srcPos + k, vnPayRem := s.vnPayRem - k, status := .malformed, cause := some .lzvnDistance })

/-- When the literals or the match of an opcode do not fit the destination window, the window is filled and the remainder
kept; the run then stops with DST_FULL, or with LZVN_ACCOUNTING when the declared output has run out (R341 to R343, R360). -/
def Obligations.FullWindowKeepsTheRemainder : Prop :=
  (∀ (s : State) (i : Instr) (k l m d : Nat),
      (IsLiteralMatch s i k l m d ∨ (IsLiteralOnly i k l ∧ m = 0 ∧ d = s.vnD)) → k + l < vnSA s → vnDA s < l →
      ∃ mem n t,
        t = { s with
              srcPos := s.srcPos + (k + vnDA s), vnPayRem := s.vnPayRem - (k + vnDA s), dstPos := s.dstPos + vnDA s,
              vnRawRem := s.vnRawRem - vnDA s, vnD := d, vnL := l - vnDA s, vnM := m, dst := mem, draws := n } ∧
        Appended s.dst mem s.dstPos (vnDA s) 0 0 (fun j => srcByte s (s.srcPos + k + j)) ∧
        (s.vnRawRem ≤ vnDA s →
          exec i s = .next { t with status := .malformed, cause := some .lzvnAccounting }) ∧
        (vnDA s < s.vnRawRem → exec i s = .next { t with status := .dstFull, phase := .ready })) ∧
  (∀ (s : State) (i : Instr) (k l m d : Nat),
      (IsLiteralMatch s i k l m d ∨ (IsMatchOnly i k m ∧ l = 0 ∧ d = s.vnD)) → DstFilled s → k + l < vnSA s →
      l ≤ vnDA s → vnDA s < l + m → d ≠ 0 → d ≤ s.dstPos + l →
      ∃ mem n t,
        t = { s with
              srcPos := s.srcPos + (k + l), vnPayRem := s.vnPayRem - (k + l), dstPos := s.dstPos + vnDA s,
              vnRawRem := s.vnRawRem - vnDA s, vnD := d, vnL := 0, vnM := m - (vnDA s - l), dst := mem,
              draws := n } ∧
        Appended s.dst mem s.dstPos l (vnDA s - l) d (fun j => srcByte s (s.srcPos + k + j)) ∧
        (s.vnRawRem ≤ vnDA s →
          exec i s = .next { t with status := .malformed, cause := some .lzvnAccounting }) ∧
        (vnDA s < s.vnRawRem → exec i s = .next { t with status := .dstFull, phase := .ready }))

/-- A pending remainder that fits is finished by the next step, with its literals at `src_pos` and its distance `vn_D`, and
nothing is pending after it (R324, R341 to R343). -/
def Obligations.PendingRemainderCompletes : Prop :=
  ∀ s : State, s.status = .running → s.phase = .ready → s.blk = .lzvn → (s.vnL ≠ 0 ∨ s.vnM ≠ 0) → DstFilled s →
    (s.vnL ≠ 0 → s.vnL < vnSA s) → s.vnL + s.vnM ≤ vnDA s →
    (s.vnM ≠ 0 → s.vnD ≠ 0 ∧ s.vnD ≤ s.dstPos + s.vnL) →
    ∃ mem n, step s = .next
        { s with
          srcPos := s.srcPos + s.vnL, vnPayRem := s.vnPayRem - s.vnL, dstPos := s.dstPos + s.vnL + s.vnM,
          vnRawRem := s.vnRawRem - s.vnL - s.vnM, vnL := 0, vnM := 0, dst := mem, draws := n } ∧
      Appended s.dst mem s.dstPos s.vnL s.vnM s.vnD (fun j => srcByte s (s.srcPos + j))

/-! ## The bit reader -/

/-- After init and after every flush the reader holds 56 to 63 valid bits and nothing above them; a pull lowers the count by
what it takes (40_bitreader.md R151). -/
def Obligations.ReaderWindow : Prop :=
  ∀ (w : ReaderId) (s t : State),
    ((∃ n e lo, readerInit w n e lo s = .ok () t) ∨
      (flush w s = .ok () t ∧ (reader w s).nbits ≤ 63 ∧ (reader w s).acc < 2 ^ (reader w s).nbits) →
      56 ≤ (reader w t).nbits ∧ (reader w t).nbits ≤ 63 ∧ (reader w t).acc < 2 ^ (reader w t).nbits) ∧
    (∀ n b, pull w n s = .ok b t → (reader w t).nbits + n = (reader w s).nbits)

/-- `init`: with -8 ≤ n < 0 eight bytes are loaded and `n + 64` bits are valid, with n = 0 seven bytes and 56 bits; every
other `n`, too few bytes, or a set bit above the valid ones raises BITSTREAM_INIT (R152). -/
def Obligations.ReaderInit : Prop :=
  ∀ (w : ReaderId) (s : State) (n : Int) (e lo : Nat), e ≤ s.srcLen →
    (∀ v, -8 ≤ n → n < 0 → lo + 8 ≤ e → srcRead s (e - 8) 8 = some v →
      (v < 2 ^ (n + 64).toNat →
        readerInit w n e lo s = .ok () (setReader w ⟨v, (n + 64).toNat, e - 8, lo⟩ s)) ∧
      (2 ^ (n + 64).toNat ≤ v →
        readerInit w n e lo s =
          .ended (raiseMalformed .bitstreamInit (setReader w ⟨v, (n + 64).toNat, e - 8, lo⟩ s)))) ∧
    (∀ v, n = 0 → lo + 7 ≤ e → srcRead s (e - 7) 7 = some v →
      readerInit w n e lo s = .ok () (setReader w ⟨v, 56, e - 7, lo⟩ s)) ∧
    ((n < -8 ∨ 0 < n ∨ e < lo + 7 ∨ (n ≠ 0 ∧ e < lo + 8)) →
      ∃ r, readerInit w n e lo s = .ended (raiseMalformed .bitstreamInit (setReader w r s)))

/-- `flush`: the largest number of whole bytes that keeps at most 63 bits is loaded from just below `pos` under the bits
held; it raises BITSTREAM_FLUSH when that would pass `lower`, and a pull of at most 56 bits can follow it (R155, R157). -/
def Obligations.FlushRefillsWholeBytes : Prop :=
  ∀ (w : ReaderId) (s : State) (add : Nat), ReaderInv (reader w s) s.srcLen →
    add % 8 = 0 → (reader w s).nbits + add ≤ 63 → 56 ≤ (reader w s).nbits + add →
    ((reader w s).pos < (reader w s).lower + add / 8 → flush w s = .ended (raiseMalformed .bitstreamFlush s)) ∧
    ((reader w s).lower + add / 8 ≤ (reader w s).pos →
      ∃ v, srcRead s ((reader w s).pos - add / 8) (add / 8) = some v ∧
        flush w s = .ok ()
          (setReader w
            ⟨(reader w s).acc * 2 ^ add + v, (reader w s).nbits + add, (reader w s).pos - add / 8,
              (reader w s).lower⟩ s) ∧
        ∀ n ≤ 56, ∃ b t, flushPull w n s = .ok b t ∧ b < 2 ^ n ∧ ReaderInv (reader w t) s.srcLen)

/-- `pull`: it answers the top bits and keeps the rest, and two pulls give the bits that one pull of both lengths gives, the
first pull's above the second's (R156). -/
def Obligations.PullTakesTheTopBits : Prop :=
  ∀ (w : ReaderId) (s : State) (a b : Nat), (reader w s).acc < 2 ^ (reader w s).nbits →
    a + b ≤ (reader w s).nbits →
    pull w a s = .ok ((reader w s).acc / 2 ^ ((reader w s).nbits - a))
      (setReader w
        { reader w s with
          acc := (reader w s).acc % 2 ^ ((reader w s).nbits - a), nbits := (reader w s).nbits - a } s) ∧
    (reader w s).acc / 2 ^ ((reader w s).nbits - a) < 2 ^ a ∧
    pull w (a + b) s =
      (pull w a s).bind fun x s1 => (pull w b s1).bind fun y s2 => .ok (x * 2 ^ b + y) s2

/-! ## FSE tables and symbols -/

/-- The bit counts of a symbol's occurrences in a table of `2^n` states (41_fse.md R182). -/
def Obligations.OccurrenceRanges : Prop :=
  ∀ n m f : Nat, n ≤ 31 → 2 ^ m ≤ f → f < 2 ^ (m + 1) → f ≤ 2 ^ n →
    m ≤ n ∧ clz32 f - clz32 (2 ^ n) = n - m ∧ clz32 (2 ^ n) ≤ clz32 f ∧
    (2 * 2 ^ n) >>> (n - m) - f = 2 ^ (m + 1) - f ∧ 1 ≤ 2 ^ (m + 1) - f ∧ 2 ^ (m + 1) - f ≤ 2 ^ m ∧
    (∀ j < f,
      (occurrence (2 ^ n) f j).1 = (if j < 2 ^ (m + 1) - f then n - m else n - m - 1) ∧
      (n - m = 0 → j < 2 ^ (m + 1) - f) ∧
      (f = 2 ^ m → (occurrence (2 ^ n) f j).1 = n - m) ∧
      (occurrence (2 ^ n) f j).1 ≤ n ∧
      (1 ≤ n → (occurrence (2 ^ n) f j).1 = n → f = 1)) ∧
    (n - m = 0 ↔ f = 2 ^ n)

/-- The occurrences of one symbol split the states `0 .. N-1` into disjoint intervals, one per occurrence, the first `j0`
above the others: every next state is a state of the table, and every state is the next state of exactly one occurrence
and one bit pattern (R185). -/
def Obligations.OccurrencesTileTheStates : Prop :=
  ∀ n f k j0 : Nat, n ≤ 31 → 1 ≤ f → f ≤ 2 ^ n → k = clz32 f - clz32 (2 ^ n) → j0 = (2 * 2 ^ n) >>> k - f →
    (∀ j < f,
      (j < j0 → occurrence (2 ^ n) f j = (k, (f + j) * 2 ^ k - 2 ^ n) ∧ 2 ^ n ≤ (f + j) * 2 ^ k) ∧
      (j0 ≤ j → occurrence (2 ^ n) f j = (k - 1, (j - j0) * 2 ^ (k - 1)) ∧ 1 ≤ k) ∧
      (∀ b < 2 ^ (occurrence (2 ^ n) f j).1, (occurrence (2 ^ n) f j).2 + b < 2 ^ n)) ∧
    (∀ x < 2 ^ n, ∃ j < f,
      ((occurrence (2 ^ n) f j).2 ≤ x ∧ x < (occurrence (2 ^ n) f j).2 + 2 ^ (occurrence (2 ^ n) f j).1) ∧
      (j < j0 ↔ f * 2 ^ k - 2 ^ n ≤ x) ∧
      ∀ i < f, (occurrence (2 ^ n) f i).2 ≤ x →
        x < (occurrence (2 ^ n) f i).2 + 2 ^ (occurrence (2 ^ n) f i).1 → i = j)

/-- Both table builders lay the occurrences out in histogram order, symbol `i` from the sum of the counts before it, and
leave the slots above the sum unassigned (R181, R183, R184). -/
def Obligations.TableSlotsFollowTheHistogram : Prop :=
  ∀ (n : Nat) (fs extra base : List Nat), freqSum fs ≤ n →
    (buildSym n fs).2 = false ∧ (buildVal n extra base fs).2 = false ∧
    (buildSym n fs).1.length = n ∧ (buildVal n extra base fs).1.length = n ∧
    (∀ i f j, fs[i]? = some f → j < f →
      (buildSym n fs).1[freqSum (fs.take i) + j]? = some ⟨true, i, (occurrence n f j).1, (occurrence n f j).2⟩ ∧
      (buildVal n extra base fs).1[freqSum (fs.take i) + j]? =
        some
          ⟨true, (occurrence n f j).1 + extra.getD i 0, extra.getD i 0, base.getD i 0, (occurrence n f j).2⟩) ∧
    (∀ p, freqSum fs ≤ p → p < n →
      ((buildSym n fs).1[p]?).map (·.assigned) = some false ∧
      ((buildVal n extra base fs).1[p]?).map (·.assigned) = some false)

/-- A build overflows exactly when the counts sum to more than the states, and after a passed header check no build of the
setup does (R181, R187). -/
def Obligations.TableOverflow : Prop :=
  (∀ (n : Nat) (fs extra base : List Nat),
    ((buildSym n fs).2 = true ↔ n < freqSum fs) ∧ ((buildVal n extra base fs).2 = true ↔ n < freqSum fs)) ∧
  (∀ s : State, hdrCheck s = 0#14 → ∃ t, buildTables s = .ok () t)

/-- `lit_sym`: the entry of the current lane's state gives the literal and the bits of the lane's next state; the literal is
stored at the running index and nothing else but the reader changes. Lane 0 of each group flushes first (R188,
43_lzfse_block.md R271). -/
def Obligations.LiteralSymbolCompletes : Prop :=
  ∀ (s s1 s2 : State) (e : SymEntry) (b : Nat), e = s.tLit.getD (lane s.ls s.litIdx) .unassigned →
    e.assigned = true → s.litIdx < litBufSize →
    (if s.litIdx % 4 = 0 then flush .litrd s else .ok () s) = .ok () s1 → pull .litrd e.nbits s1 = .ok b s2 →
    ∃ mem, exec .litSym s = .next
        { s with
          litrd := s2.litrd, lit := mem, ls := setLane s.ls s.litIdx (e.delta + b), litIdx := s.litIdx + 1 } ∧
      memRead .lit mem s.litIdx = some (BitVec.ofNat 8 e.sym) ∧
      ∀ q ≠ s.litIdx, memRead .lit mem q = memRead .lit s.lit q

/-- `l_val`: the entry of the L state gives the literal length and the next L state; a length that passes the literals
buffer raises LIT_OVERRUN (R189, R277). -/
def Obligations.LiteralLengthCompletes : Prop :=
  ∀ (s s2 : State) (e : ValEntry) (b v : Nat), e = s.tL.getD s.lSt .unassigned → e.assigned = true →
    flushPull .lmd e.totalBits s = .ok b s2 → v = e.vbase + b % 2 ^ e.vbits →
    (s.litPos + v ≤ litBufSize →
      exec .lVal s = .next
        { s with lmd := s2.lmd, lv := v, lSt := e.delta + b / 2 ^ e.vbits, phase := .mVal }) ∧
    (litBufSize < s.litPos + v →
      exec .lVal s = .next
        { s with
          lmd := s2.lmd, lv := v, lSt := e.delta + b / 2 ^ e.vbits, status := .malformed,
          cause := some .litOverrun })

/-- `m_val` and `d_val`: the match length, then the distance; a zero distance value keeps the previous distance, and the
triplet is then pending with one triplet less to decode (R189, R278). -/
def Obligations.MatchLengthAndDistanceComplete : Prop :=
  (∀ (s s2 : State) (e : ValEntry) (b : Nat), e = s.tM.getD s.mSt .unassigned → e.assigned = true →
    flushPull .lmd e.totalBits s = .ok b s2 →
    exec .mVal s = .next
      { s with
        lmd := s2.lmd, mv := e.vbase + b % 2 ^ e.vbits, mSt := e.delta + b / 2 ^ e.vbits, phase := .dVal }) ∧
  (∀ (s s2 : State) (e : ValEntry) (b v : Nat), e = s.tD.getD s.dSt .unassigned → e.assigned = true →
    flushPull .lmd e.totalBits s = .ok b s2 → v = e.vbase + b % 2 ^ e.vbits →
    exec .dVal s = .next
      { s with
        lmd := s2.lmd, dSt := e.delta + b / 2 ^ e.vbits, D := if v = 0 then s.D else some v, L := s.lv, M := s.mv,
        nRem := s.nRem - 1, phase := .copy })

/-- An FSE symbol whose state names an unassigned slot faults, and one whose reader cannot be refilled raises BITSTREAM_FLUSH
and writes nothing (R184, R188, R189, 43_lzfse_block.md R271, R277, R278). -/
def Obligations.FseSymbolsStop : Prop :=
  ∀ s s1 : State,
    (flush .lmd s = .ok () s1 →
      ((s.tL.getD s.lSt .unassigned).assigned = false → exec .lVal s = .fault .unassignedSlot) ∧
      ((s.tM.getD s.mSt .unassigned).assigned = false → exec .mVal s = .fault .unassignedSlot) ∧
      ((s.tD.getD s.dSt .unassigned).assigned = false → exec .dVal s = .fault .unassignedSlot)) ∧
    ((if s.litIdx % 4 = 0 then flush .litrd s else .ok () s) = .ok () s1 →
      (s.tLit.getD (lane s.ls s.litIdx) .unassigned).assigned = false →
      exec .litSym s = .fault .unassignedSlot) ∧
    (s.lmd.pos < s.lmd.lower + flushAdd s.lmd.nbits / 8 →
      exec .lVal s = .next { s with status := .malformed, cause := some .bitstreamFlush } ∧
      exec .mVal s = .next { s with status := .malformed, cause := some .bitstreamFlush } ∧
      exec .dVal s = .next { s with status := .malformed, cause := some .bitstreamFlush }) ∧
    (s.litIdx % 4 = 0 → s.litrd.pos < s.litrd.lower + flushAdd s.litrd.nbits / 8 →
      exec .litSym s = .next { s with status := .malformed, cause := some .bitstreamFlush })

/-! ## The header's frequency stream and check -/

/-- The frequency codes `f2`, `f3`, `f5`, `f8` and `f14`: the count is appended and the code's bits are dropped; a code
longer than the bits left raises HDR_V2_FREQ; the 360th count completes the header, or raises HDR_V2_FREQ when 8 or more
bits or a byte of the stream are left (42_header.md R239, R240). -/
def Obligations.FrequencyCodesComplete : Prop :=
  ∀ (s : State) (i : Instr) (n v : Nat) (r r' : FreqReader) (fs : List Nat), IsFreqCode i n v →
    freqWindow s = some r → r' = { r with acc := r.acc / 2 ^ n, nb := r.nb - n } → fs = s.freqs ++ [v] →
    (r.nb < n → exec i s = .next { s with freq := r, status := .malformed, cause := some .hdrV2Freq }) ∧
    (n ≤ r.nb → fs.length < 360 → exec i s = .next { s with freqs := fs, freq := r' }) ∧
    (n ≤ r.nb → 360 ≤ fs.length → r'.nb < 8 → r'.q = r'.qend →
      exec i s = .next { s with freqs := fs, freq := r', hdr := withFreqs s.hdr fs, phase := .setup }) ∧
    (n ≤ r.nb → 360 ≤ fs.length → (8 ≤ r'.nb ∨ r'.q ≠ r'.qend) →
      exec i s = .next { s with freqs := fs, freq := r', status := .malformed, cause := some .hdrV2Freq })

/-- The refill before a code takes whole bytes in order, low bit first, above the bits held, until the stream is used up or
fewer than 8 bits of the 32 are free (R239). -/
def Obligations.FrequencyRefill : Prop :=
  ∀ s : State, s.freq.q ≤ s.freq.qend → s.freq.qend ≤ s.srcLen → s.freq.nb ≤ 32 →
    s.freq.acc < 2 ^ s.freq.nb →
    ∃ r k v, freqWindow s = some r ∧ r.qend = s.freq.qend ∧ r.q = s.freq.q + k ∧ r.q ≤ r.qend ∧
      r.nb = s.freq.nb + 8 * k ∧ r.nb ≤ 32 ∧ srcRead s s.freq.q k = some v ∧
      r.acc = s.freq.acc + v * 2 ^ s.freq.nb ∧ r.acc < 2 ^ r.nb ∧ (r.q = r.qend ∨ 24 < r.nb)

/-- The 14 bits of `hdr_fail`, and HDR_INVALID when one of them is set (R245). -/
def Obligations.HeaderCheck : Prop :=
  ∀ s : State,
    ((hdrCheck s).getLsbD 0 = true ↔ s.magic ≠ magicV1 ∧ s.magic ≠ magicV2) ∧
    ((hdrCheck s).getLsbD 1 = true ↔ 40000 < s.hdr.nLiterals) ∧
    ((hdrCheck s).getLsbD 2 = true ↔ 10000 < s.hdr.nMatches) ∧
    (∀ k < 4, (hdrCheck s).getLsbD (3 + k) = true ↔ s.cfg.nLit ≤ lane s.hdr.litState k) ∧
    ((hdrCheck s).getLsbD 7 = true ↔ s.cfg.nL ≤ s.hdr.lState) ∧
    ((hdrCheck s).getLsbD 8 = true ↔ s.cfg.nM ≤ s.hdr.mState) ∧
    ((hdrCheck s).getLsbD 9 = true ↔ s.cfg.nD ≤ s.hdr.dState) ∧
    ((hdrCheck s).getLsbD 10 = true ↔ s.cfg.nL < freqSum s.hdr.lFreq) ∧
    ((hdrCheck s).getLsbD 11 = true ↔ s.cfg.nM < freqSum s.hdr.mFreq) ∧
    ((hdrCheck s).getLsbD 12 = true ↔ s.cfg.nD < freqSum s.hdr.dFreq) ∧
    ((hdrCheck s).getLsbD 13 = true ↔ s.cfg.nLit < freqSum s.hdr.litFreq) ∧
    (s.status = .running → s.phase = .setup → hdrCheck s ≠ 0#14 →
      step s = .next { s with hdrFail := hdrCheck s, status := .malformed, cause := some .hdrInvalid })

/-! ## LZFSE setup -/

/-- After a passed check, a body that is not all in SRC stops with SRC_EMPTY and commits nothing; otherwise the four tables
are built, every literal mark is cleared and the literal reader and the lanes are set, or BITSTREAM_INIT is raised
(43_lzfse_block.md R270, R271, R273). -/
def Obligations.SetupBuildsTheTables : Prop :=
  ∀ (s : State) (o : Res Unit), s.status = .running → s.phase = .setup → hdrCheck s = 0#14 →
    o = readerInit .litrd s.hdr.literalBits (bodyPos s + s.hdr.nLitPayload) 0 s →
    (s.srcLen < bodyPos s + s.hdr.nLitPayload + s.hdr.nLmdPayload →
      step s = .next { s with hdrFail := 0#14, status := .srcEmpty, phase := .ready }) ∧
    (bodyPos s + s.hdr.nLitPayload + s.hdr.nLmdPayload ≤ s.srcLen →
      (∀ r, o = .ok () r →
        step s = .next
          { s with
            hdrFail := 0#14, tLit := (buildSym s.cfg.nLit s.hdr.litFreq).1,
            tL := (buildVal s.cfg.nL s.cfg.lExtra s.cfg.lBase s.hdr.lFreq).1,
            tM := (buildVal s.cfg.nM s.cfg.mExtra s.cfg.mBase s.hdr.mFreq).1,
            tD := (buildVal s.cfg.nD s.cfg.dExtra s.cfg.dBase s.hdr.dFreq).1,
            lit := [], litrd := r.litrd, ls := s.hdr.litState, litIdx := 0, phase := .lits }) ∧
      (∀ r, o = .ended r → ∃ t, step s = .next t ∧ t.status = .malformed ∧ t.cause = some .bitstreamInit ∧
        t.srcPos = s.srcPos ∧ t.dstPos = s.dstPos ∧ t.dst = s.dst ∧ t.blk = s.blk))

/-- The end of the setup, after the last literal: the L/M/D reader and the triplet registers are set, `src_pos` moves to the
L/M/D payload and the block is V1 or V2 by its magic; when the L/M/D reader cannot be set up, BITSTREAM_INIT is raised, and
nothing but that reader is written: `src_pos` is still the block start (R272, 60_exceptions.md R424). -/
def Obligations.SetupEndsWithTheTripletRegisters : Prop :=
  ∀ (s t : State) (o : Res Unit), s.status = .running → s.phase = .lits → litGoal s ≤ s.litIdx →
    o = readerInit .lmd s.hdr.lmdBits (bodyPos s + s.hdr.nLitPayload + s.hdr.nLmdPayload) 0 s →
    (o = .ok () t →
      step s = .next
        { s with
          lmd := t.lmd, lSt := s.hdr.lState, mSt := s.hdr.mState, dSt := s.hdr.dState, L := 0, M := 0, D := none,
          nRem := s.hdr.nMatches, litPos := 0, lmdPay := s.hdr.nLmdPayload,
          srcPos := s.srcPos + s.hdr.hdrLen + s.hdr.nLitPayload,
          blk := if s.magic = magicV1 then .v1 else .v2, phase := .ready }) ∧
    (o = .ended t →
      step s = .next { s with lmd := t.lmd, status := .malformed, cause := some .bitstreamInit })

/-! ## The triplet step -/

/-- A triplet step starts with the source check; with nothing pending and no triplet left the block ends past its payload
(R274 to R276). -/
def Obligations.TripletStepChecksAndEnds : Prop :=
  ∀ s : State, s.status = .running → s.phase = .ready → (s.blk = .v1 ∨ s.blk = .v2) →
    ((s.srcLen ≤ s.srcPos ∨ s.srcLen - s.srcPos < s.lmdPay) → step s = .next { s with status := .srcEmpty }) ∧
    (s.srcPos < s.srcLen → s.lmdPay ≤ s.srcLen - s.srcPos → s.L = 0 → s.M = 0 → s.nRem = 0 →
      step s = .next { s with srcPos := s.srcPos + s.lmdPay, blk := .none })

/-- The distance check comes before any copy: without a distance, or with one above the bytes produced and the literals to
come, the triplet writes nothing and raises BAD_DISTANCE, also when its match is empty (R279). A literal copy that
reaches a LIT entry this block's pass did not write faults, and never gives a byte (R283). -/
def Obligations.ExecuteStops : Prop :=
  (∀ s : State, AtExecute s → (s.D = none ∨ ∃ d, s.D = some d ∧ s.dstPos + s.L < d) →
      step s = .next { s with status := .malformed, cause := some .badDistance }) ∧
  (∀ (s : State) (d j : Nat), AtExecute s → s.D = some d → d ≤ s.dstPos + s.L → s.dstPos ≤ s.dstCap →
      s.litPos + s.L ≤ litBufSize → j < s.L → j < s.dstCap - s.dstPos → litWritten s (s.litPos + j) = false →
      step s = .fault .staleLiteral)

/-- A triplet that fits is copied whole, on the fast and on the slow path alike: its literals from LIT and then its match are
appended to DST, and nothing is pending (R280 to R282). -/
def Obligations.ExecuteCompletes : Prop :=
  ∀ (s : State) (d : Nat), AtExecute s → s.D = some d → d ≠ 0 → d ≤ s.dstPos + s.L → DstFilled s →
    s.dstPos ≤ s.dstCap → s.L + s.M ≤ s.dstCap - s.dstPos → s.litPos + s.L ≤ litBufSize →
    (∀ j < s.L, litWritten s (s.litPos + j) = true) →
    ∃ mem n, step s = .next
        { s with
          dstPos := s.dstPos + s.L + s.M, litPos := s.litPos + s.L, L := 0, M := 0, dst := mem, draws := n,
          phase := .ready } ∧
      Appended s.dst mem s.dstPos s.L s.M d (fun j => memRead .lit s.lit (s.litPos + j))

/-- A triplet that does not fit fills DST, keeps what is left of it with its distance, and stops with DST_FULL (R281, R282). -/
def Obligations.ExecuteKeepsTheRest : Prop :=
  ∀ (s : State) (d room l : Nat), AtExecute s → s.D = some d → d ≠ 0 → d ≤ s.dstPos + s.L → DstFilled s →
    s.dstPos ≤ s.dstCap → room = s.dstCap - s.dstPos → room < s.L + s.M → l = min s.L room →
    s.litPos + s.L ≤ litBufSize → (∀ j < l, litWritten s (s.litPos + j) = true) →
    ∃ mem n, step s = .next
        { s with
          dstPos := s.dstCap, litPos := s.litPos + l, L := s.L - l, M := s.M - (room - l), dst := mem, draws := n,
          status := .dstFull, phase := .ready } ∧
      Appended s.dst mem s.dstPos l (room - l) d (fun j => memRead .lit s.lit (s.litPos + j))

/-! ## The whole machine -/

/-- The state after reset meets the invariant and the register ranges. This is about the model's own choices: the values of the
registers that 70_reset_and_hazards.md R460 leaves unspecified (log entry 1), the empty buffers of the reset state (log
entry 5) and the default parameters (log entry 6), whose value tables give the ranges of L, M and D that 10_state.md R37
prints. -/
def Obligations.ResetMeetsTheInvariant : Prop :=
  Inv State.reset ∧ InRange State.reset ∧ Config.default.lTop = 315 + 1 ∧ Config.default.mTop = 2359 + 1 ∧
    Config.default.dTop = 262139 + 1

/-- Every step, from every state that meets it, keeps the invariant: canonical memories inside their buffers, DST filled
below `dst_pos`, cursors in their buffers, a cause exactly when the run ended badly, and sound readers, tables,
distances and remainders, for all parameters that fit the core (10_state.md R32 to R41, 20_memory.md R73, 40_bitreader.md
R150, R157, 44_lzvn.md R344; log entry 6). -/
def Obligations.StepKeepsTheInvariant : Prop := ∀ s t : State, Inv s → step s = .next t → Inv t

/-- Every step keeps the registers of 10_state.md R35 to R39 in the ranges given there, for all parameters that fit the core
(log entry 6); L, M and D stay in the ranges that the value tables of the parameters give (R37, 41_fse.md R186). -/
def Obligations.StepKeepsTheRegisterRanges : Prop :=
  ∀ s t : State, Inv s → InRange s → step s = .next t → InRange t

/-- No step from a state that meets the invariant leaves a buffer or pulls bits that are not there (20_memory.md R72, R81,
40_bitreader.md R157, 60_exceptions.md R428). -/
def Obligations.OutOfBoundsFaultsAreUnreachable : Prop := ∀ s : State, Inv s → SafeStep s

/-- A running step never moves a cursor back, never changes a byte of DST below `dst_pos`, and never writes SRC, the
capacities, the parameters or the command port (10_state.md R33, R34, 20_memory.md R71). -/
def Obligations.RunningStepFrame : Prop :=
  ∀ s t : State, s.status = .running → step s = .next t →
    s.srcPos ≤ t.srcPos ∧ s.dstPos ≤ t.dstPos ∧
    (∀ p < s.dstPos, memRead .dst t.dst p = memRead .dst s.dst p) ∧
    t.src = s.src ∧ t.srcLen = s.srcLen ∧ t.dstCap = s.dstCap ∧ t.cfg = s.cfg ∧ t.cmd = s.cmd

/-- The tables change only in the setup of a V1 or V2 block (41_fse.md R190). -/
def Obligations.TablesChangeOnlyInSetup : Prop :=
  ∀ s t : State, s.status = .running → step s = .next t → s.phase ≠ .setup →
    t.tLit = s.tLit ∧ t.tL = s.tL ∧ t.tM = s.tM ∧ t.tD = s.tD

/-- At every DST_FULL stop DST is full and something is pending: bytes of a RAW block, a remainder of an LZVN opcode, or a
triplet with its distance (60_exceptions.md R426, 43_lzfse_block.md R284, 44_lzvn.md R344). -/
def Obligations.DstFullMeansFullAndPending : Prop :=
  ∀ s t : State, Inv s → s.status = .running → step s = .next t → t.status = .dstFull →
    t.dstPos = t.dstCap ∧ t.blk ≠ .none ∧ (t.blk = .raw → 1 ≤ t.rawRem) ∧ (t.blk = .lzvn → 1 ≤ t.vnL + t.vnM) ∧
    (t.blk = .v1 ∨ t.blk = .v2 → 1 ≤ t.L + t.M ∧ t.D ≠ none)

/-- A step that stops with SRC_EMPTY commits nothing: beside the status only the setup's own transients can differ
(45_dispatcher.md R387, 43_lzfse_block.md R273, R275, 60_exceptions.md R425). -/
def Obligations.SrcEmptyCommitsNothing : Prop :=
  ∀ s t : State, Inv s → s.status = .running → step s = .next t → t.status = .srcEmpty →
    t = { s with status := .srcEmpty, phase := .ready, hdrFail := t.hdrFail }

/-- Only an end-of-stream magic ends a run with OK or sets `eos_seen` (45_dispatcher.md R382, 10_state.md R32). -/
def Obligations.OnlyEndOfStreamEndsOk : Prop :=
  ∀ s t : State, s.status = .running → step s = .next t → (t.status = .ok ∨ t.eosSeen ≠ s.eosSeen) →
    s.phase = .ready ∧ s.blk = .none ∧ srcRead s s.srcPos 4 = some magicEos ∧
    t = { s with srcPos := s.srcPos + 4, eosSeen := true, status := .ok }

/-- The unspecified bytes of DST cannot influence a run: two states that differ only in which draw those bytes come from step
alike (20_memory.md R74, R80, 70_reset_and_hazards.md R460). -/
def Obligations.UnspecifiedBytesNeverMatter : Prop :=
  ∀ s t : State, Inv s → SameButDraws s t → s.status = .running → Alike (step s) (step t)

/-- A step that stopped with DST_FULL and is resumed with a larger DST goes on as that step would have gone with the larger
DST from the start (45_dispatcher.md R397, 70_reset_and_hazards.md R472). -/
def Obligations.ResumeAfterDstFullGoesOn : Prop :=
  ∀ (s t : State) (c : Nat), Inv s → s.status = .running → step s = .next t → t.status = .dstFull → s.dstCap ≤ c →
    Alike (step { t with dstCap := c, status := .running }) (step { s with dstCap := c })

/-- Every run from START ends within the model's step bound, by a final status or a fault, and more fuel gives the same end
(45_dispatcher.md R402, R399). The bound for the finer steps is the model's own (log entry 2), the run starts from the values
that the model chose for what START leaves unspecified (log entry 1), and the parameters fit the core (log entry 6). -/
def Obligations.EveryRunEnds : Prop :=
  ∀ (b : Buffers) (s : State) (k : Nat), s.cfg.Wf →
    runLoop (fuelBound b.src.length b.dstCap + k) (startState b s) =
      runLoop (fuelBound b.src.length b.dstCap) (startState b s) ∧
    (∀ t, runLoop (fuelBound b.src.length b.dstCap) (startState b s) = .next t →
      t.status = .ok ∨ t.status = .srcEmpty ∨ t.status = .dstFull ∨ t.status = .malformed) ∧
    (∀ r, runLoop (fuelBound b.src.length b.dstCap) (startState b s) ≠ .refused r)

/-! ## The host's commands and ports -/

/-- START leaves the values that 70_reset_and_hazards.md R460 gives, over the supplied buffers, and the run begins at its entry
point: the next step is the dispatcher's, at SRC offset 0. That the sequencer stands at a step boundary (`phase`, log entry 2)
and that the command is off the port (`cmd`, log entry 8) are said in the model's own registers. -/
def Obligations.StartResets : Prop :=
  ∀ (s : State) (b : Buffers), s.status ≠ .running → s.cmd = some (.start b) → b.disjoint = true →
    b.src.length < 2 ^ 64 → b.dstCap < 2 ^ 64 →
    ∃ t, step s = .next t ∧ t.srcLen = b.src.length ∧ t.dstCap = b.dstCap ∧ t.srcPos = 0 ∧ t.dstPos = 0 ∧
      t.blk = .none ∧ t.status = .running ∧ t.cause = none ∧ t.eosSeen = false ∧
      (∀ i, litWritten t i = false ∧ memRead .lit t.lit i = none) ∧ (∀ p, memRead .dst t.dst p = none) ∧
      (∀ p, srcByte t p = b.src[p]?) ∧ t.cfg = s.cfg ∧ t.phase = .ready ∧ t.cmd = none

/-- RESUME changes the buffers and the status, and nothing else (45_dispatcher.md R397, 70_reset_and_hazards.md R486). The
command is taken off the port (log entry 8), and the DST bytes at and above `dst_pos`, which R472 does not bind the host to
keep, are drawn anew (log entry 3). -/
def Obligations.ResumeKeepsAllOtherState : Prop :=
  ∀ (s : State) (b : Buffers), MemInv s → (s.status = .srcEmpty ∨ s.status = .dstFull) →
    s.cmd = some (.resume b) → b.disjoint = true → b.dstKept = true → b.src.length < 2 ^ 64 → b.dstCap < 2 ^ 64 →
    (∀ p < s.srcLen, b.src[p]? = srcByte s p) → s.dstCap ≤ b.dstCap →
    ∃ t, step s = .next t ∧
      t = { s with
            src := t.src, srcLen := b.src.length, dstCap := b.dstCap, status := .running, cause := none,
            cmd := none, draws := t.draws } ∧
      ∀ p, srcByte t p = b.src[p]?

/-- A refused command changes nothing, beside that it is off the port afterwards, which is the model's choice (DESIGN CHOICE, log
entry 8: it is dropped): RESUME after OK, MALFORMED, UNSPEC or before the first START, a launch whose buffers
overlap or are too long, and a RESUME that changes old bytes or shrinks a buffer; while a run is on every command is
refused, and without a command an idle core keeps all its state (70_reset_and_hazards.md R470 to R472, 60_exceptions.md
R447). -/
def Obligations.RefusedCommandsChangeNothing : Prop :=
  ∀ s : State,
    (s.status = .running → ∀ c, issueCommand c s = .refused .commandWhileRunning ∧
      acceptCommand c s = .refused .commandWhileRunning) ∧
    (s.status ≠ .running → s.cmd = none → step s = .next s) ∧
    (∀ b, s.status ≠ .running → s.cmd = some (.start b) →
      (b.disjoint = false ∨ 2 ^ 64 ≤ b.src.length ∨ 2 ^ 64 ≤ b.dstCap) → step s = .next { s with cmd := none }) ∧
    (∀ b, s.status ≠ .running → s.cmd = some (.resume b) →
      ((s.status ≠ .srcEmpty ∧ s.status ≠ .dstFull) ∨ b.disjoint = false ∨ 2 ^ 64 ≤ b.src.length ∨
        2 ^ 64 ≤ b.dstCap ∨ b.src.length < s.srcLen ∨ (∃ p < s.srcLen, b.src[p]? ≠ srcByte s p) ∨
        b.dstCap < s.dstCap ∨ b.dstKept = false) →
      step s = .next { s with cmd := none })

/-- The codes of the STATUS port (60_exceptions.md R423). The output ports: nothing can be read while a run is on or before the
first START, whose status is the model's own `unstarted` (log entry 9); otherwise STATUS reads as its code, and CAUSE, DST_POS,
SRC_POS and the written bytes of DST as they stand, or after a fault STATUS and CAUSE alone (10_state.md R44, 45_dispatcher.md R395, 20_memory.md R84,
70_reset_and_hazards.md R461). The observation at the end of a run: the status, the cause, the two positions and the DST bytes
below `dst_pos`, or the cause of a fault alone (45_dispatcher.md R399, 60_exceptions.md R428). The public wrapper, for every
parameters: 0 for an empty buffer, the byte count after OK and DST_FULL, 0 after SRC_EMPTY and MALFORMED, and no value after
a fault (45_dispatcher.md R400); what it gives when START is refused is log entry 17, and nothing is said of it here. -/
def Obligations.StatusCodesAndWrapperResult : Prop :=
  statusCode .running = some 1 ∧ statusCode .ok = some 0 ∧ statusCode .srcEmpty = some (-1) ∧
  statusCode .dstFull = some (-2) ∧ statusCode .malformed = some (-3) ∧ statusCode .unspec = some (-4) ∧
  (∀ s : State,
    (s.status = .running ∨ s.status = .unstarted →
      readPorts s = none ∧ (∀ p, readDst s p = none) ∧ observe (.next s) = none) ∧
    (s.status = .unspec →
      (∃ d p, readPorts s = some ⟨-4, s.cause, d, p⟩) ∧ observe (.next s) = s.cause.map .unspec) ∧
    (∀ c, s.status ≠ .running → s.status ≠ .unspec → statusCode s.status = some c →
      readPorts s = some ⟨c, s.cause, s.dstPos, s.srcPos⟩ ∧
      (∀ p v, p < s.dstCap → memRead .dst s.dst p = some v → readDst s p = some v) ∧
      (∀ p, s.dstCap ≤ p → readDst s p = none) ∧
      ∃ out, observe (.next s) = some (.final s.status s.cause s.dstPos s.srcPos out) ∧ out.length = s.dstPos ∧
        ∀ p < s.dstPos, out[p]? = some (readDst s p))) ∧
  (∀ f : Fault, observe (.fault f) = some (.unspec f.cause)) ∧
  (∀ cfg src c, (c = 0 ∨ src = []) → decompress cfg src c = some 0) ∧
  (∀ cfg src c o, c ≠ 0 → src ≠ [] → o = startRun ⟨src, c, true, true⟩ (State.beforeStart cfg) →
    (∀ t, o = .next t → t.status = .ok ∨ t.status = .dstFull → decompress cfg src c = some t.dstPos) ∧
    (∀ t, o = .next t → t.status = .srcEmpty ∨ t.status = .malformed → decompress cfg src c = some 0) ∧
    (∀ f, o = .fault f → decompress cfg src c = none))

end Statements
end

