-- ==== Sys2Proof/Laws/Memory.lean ====
section
/-! SUPPORT. The laws of memory: what a read gives after each operation, that every operation keeps the canonical form, and
that equal reads mean equal memories. -/

namespace Sys2Proof.Machine

/-! ## Reads after writes -/

theorem memLookup_insert_same (m : Memory) (p : Nat) (v : Byte) : memLookup (memInsert m p v) p = some v := by
  induction m with
  | nil => simp [memInsert, memLookup]
  | cons c m ih =>
    obtain ⟨a, w⟩ := c
    simp only [memInsert]
    split
    · simp [memLookup]
    · split
      · simp [memLookup]
      · simp [memLookup, *]

theorem memLookup_insert_other (m : Memory) {p q : Nat} (v : Byte) (h : q ≠ p) :
    memLookup (memInsert m p v) q = memLookup m q := by
  induction m with
  | nil => simp [memInsert, memLookup, Ne.symm h]
  | cons c m ih =>
    obtain ⟨a, w⟩ := c
    simp only [memInsert]
    split
    · simp [memLookup, Ne.symm h]
    · split
      · subst a
        simp [memLookup, Ne.symm h]
      · simp [memLookup, ih]

theorem memLookup_filter_keep (f : Nat → Bool) (m : Memory) {p : Nat} (h : f p = true) :
    memLookup (m.filter (fun c => f c.1)) p = memLookup m p := by
  induction m with
  | nil => rfl
  | cons c m ih =>
    obtain ⟨a, w⟩ := c
    by_cases ha : a = p
    · subst a
      simp [h, memLookup]
    · by_cases hf : f a = true <;> simp [hf, memLookup, ha, ih]

theorem memLookup_filter_drop (f : Nat → Bool) (m : Memory) {p : Nat} (h : f p = false) :
    memLookup (m.filter (fun c => f c.1)) p = none := by
  induction m with
  | nil => rfl
  | cons c m ih =>
    obtain ⟨a, w⟩ := c
    by_cases ha : a = p
    · subst a
      simp [h, ih]
    · by_cases hf : f a = true <;> simp [hf, memLookup, ha, ih]

theorem memLookup_erase_same (m : Memory) (p : Nat) : memLookup (memErase m p) p = none :=
  memLookup_filter_drop (fun a => a != p) m (by simp)

theorem memLookup_erase_other (m : Memory) {p q : Nat} (h : q ≠ p) : memLookup (memErase m p) q = memLookup m q :=
  memLookup_filter_keep (fun a => a != p) m (by simp [h])

/-- A read after a write to the same place gives the byte written. -/
theorem memRead_write_same (sp : Space) (m : Memory) (p : Nat) (v : Byte) :
    memRead sp (memWrite sp m p v) p = some v := by
  by_cases h : unlisted sp = some v
  · simp [memRead, memWrite, h, memLookup_erase_same]
  · simp [memRead, memWrite, h, memLookup_insert_same]

/-- A write leaves every other place alone. -/
theorem memRead_write_other (sp : Space) (m : Memory) {p q : Nat} (v : Byte) (h : q ≠ p) :
    memRead sp (memWrite sp m p v) q = memRead sp m q := by
  by_cases hu : unlisted sp = some v
  · simp [memRead, memWrite, hu, memLookup_erase_other m h]
  · simp [memRead, memWrite, hu, memLookup_insert_other m v h]

theorem memRead_below (sp : Space) (m : Memory) {n p : Nat} (h : p < n) :
    memRead sp (memBelow m n) p = memRead sp m p := by
  simp only [memRead, memBelow]
  rw [memLookup_filter_keep (fun a => decide (a < n)) m (by simpa using h)]

theorem memRead_below_above (sp : Space) (m : Memory) {n p : Nat} (h : n ≤ p) :
    memRead sp (memBelow m n) p = unlisted sp := by
  simp only [memRead, memBelow]
  rw [memLookup_filter_drop (fun a => decide (a < n)) m (by simpa using h)]

/-- Every SRC address reads as a byte. -/
theorem memRead_src_isSome (m : Memory) (p : Nat) : (memRead .src m p).isSome := by
  simp only [memRead]
  split <;> simp [unlisted]

theorem memRead_load_outside (sp : Space) (bs : List Byte) (m : Memory) (p q : Nat) (h : q < p ∨ p + bs.length ≤ q) :
    memRead sp (memLoad sp m p bs) q = memRead sp m q := by
  induction bs generalizing m p with
  | nil => rfl
  | cons b bs ih =>
    simp only [List.length_cons] at h
    rw [memLoad, ih _ _ (by omega), memRead_write_other _ _ _ (by omega)]

/-- A loaded byte reads back. -/
theorem memRead_load_inside (sp : Space) (bs : List Byte) (m : Memory) (p i : Nat) (h : i < bs.length) :
    memRead sp (memLoad sp m p bs) (p + i) = some bs[i] := by
  induction bs generalizing m p i with
  | nil => simp at h
  | cons b bs ih =>
    cases i with
    | zero => rw [memLoad, memRead_load_outside _ _ _ _ _ (by omega)]; exact memRead_write_same _ _ _ _
    | succ i =>
      have := ih (memWrite sp m p b) (p + 1) i (by simpa using h)
      rw [memLoad, show p + (i + 1) = p + 1 + i by omega, this]
      rfl

/-! ## The canonical form -/

theorem memCanonical_mono {sp : Space} {m : Memory} {lo hi : Nat} (h : lo ≤ hi) (hm : memCanonical sp hi m = true) :
    memCanonical sp lo m = true := by
  cases m with
  | nil => rfl
  | cons c m =>
    simp only [memCanonical, Bool.and_eq_true, decide_eq_true_eq] at hm ⊢
    exact ⟨⟨Nat.le_trans h hm.1.1, hm.1.2⟩, hm.2⟩

theorem memCanonical_insert {sp : Space} {m : Memory} {lo p : Nat} {v : Byte} (hm : memCanonical sp lo m = true)
    (hp : lo ≤ p) (hv : unlisted sp ≠ some v) : memCanonical sp lo (memInsert m p v) = true := by
  induction m generalizing lo with
  | nil => simp [memInsert, memCanonical, hp, hv]
  | cons c m ih =>
    obtain ⟨a, w⟩ := c
    simp only [memCanonical, Bool.and_eq_true, decide_eq_true_eq] at hm
    obtain ⟨⟨h1, h2⟩, h3⟩ := hm
    simp only [memInsert]
    split
    · simp only [memCanonical, Bool.and_eq_true, decide_eq_true_eq]
      exact ⟨⟨hp, hv⟩, ⟨by omega, h2⟩, h3⟩
    · split
      · subst a
        simp only [memCanonical, Bool.and_eq_true, decide_eq_true_eq]
        exact ⟨⟨hp, hv⟩, h3⟩
      · simp only [memCanonical, Bool.and_eq_true, decide_eq_true_eq]
        exact ⟨⟨h1, h2⟩, ih h3 (by omega)⟩

theorem memCanonical_filter {sp : Space} (f : Host.Cell → Bool) {m : Memory} {lo : Nat}
    (hm : memCanonical sp lo m = true) : memCanonical sp lo (m.filter f) = true := by
  induction m generalizing lo with
  | nil => rfl
  | cons c m ih =>
    obtain ⟨a, w⟩ := c
    simp only [memCanonical, Bool.and_eq_true, decide_eq_true_eq] at hm
    obtain ⟨⟨h1, h2⟩, h3⟩ := hm
    by_cases hf : f (a, w) = true
    · simp only [List.filter_cons, hf, if_true, memCanonical, Bool.and_eq_true, decide_eq_true_eq]
      exact ⟨⟨h1, h2⟩, ih h3⟩
    · simp only [List.filter_cons, hf]
      exact memCanonical_mono (by omega) (ih h3)

theorem memErase_wf {sp : Space} {m : Memory} (h : Memory.wf sp m = true) (p : Nat) :
    Memory.wf sp (memErase m p) = true := memCanonical_filter _ h

theorem memBelow_wf {sp : Space} {m : Memory} (h : Memory.wf sp m = true) (n : Nat) :
    Memory.wf sp (memBelow m n) = true := memCanonical_filter _ h

theorem memInsert_wf {sp : Space} {m : Memory} (h : Memory.wf sp m = true) (p : Nat) {v : Byte}
    (hv : unlisted sp ≠ some v) : Memory.wf sp (memInsert m p v) = true := memCanonical_insert h (Nat.zero_le _) hv

/-- A write keeps the canonical form. -/
theorem memWrite_wf {sp : Space} {m : Memory} (h : Memory.wf sp m = true) (p : Nat) (v : Byte) :
    Memory.wf sp (memWrite sp m p v) = true := by
  simp only [memWrite]
  split
  · exact memErase_wf h p
  · exact memInsert_wf h p ‹_›

theorem memLoad_wf {sp : Space} (bs : List Byte) {m : Memory} (h : Memory.wf sp m = true) (p : Nat) :
    Memory.wf sp (memLoad sp m p bs) = true := by
  induction bs generalizing m p with
  | nil => exact h
  | cons b bs ih => exact ih (memWrite_wf h p b) (p + 1)

/-- The memories of the state after reset are canonical. -/
theorem reset_memories_wf :
    Memory.wf .src State.reset.src = true ∧ Memory.wf .dst State.reset.dst = true ∧
      Memory.wf .lit State.reset.lit = true := ⟨rfl, rfl, rfl⟩

/-! ## Where cells lie -/

theorem memLookup_of_canonical_lt {sp : Space} {m : Memory} {lo p : Nat} (hm : memCanonical sp lo m = true) (hp : p < lo) :
    memLookup m p = none := by
  induction m generalizing lo with
  | nil => rfl
  | cons c m ih =>
    obtain ⟨a, w⟩ := c
    simp only [memCanonical, Bool.and_eq_true, decide_eq_true_eq] at hm
    obtain ⟨⟨h1, _⟩, h3⟩ := hm
    simp [memLookup, show ¬ a = p by omega, ih h3 (by omega)]

/-- A property of every cell's address holds after a write when it holds before and at the written address. -/
theorem memWrite_cells {sp : Space} {m : Memory} {P : Nat → Prop} (h : ∀ c ∈ m, P c.1) {p : Nat} (hp : P p) (v : Byte) :
    ∀ c ∈ memWrite sp m p v, P c.1 := by
  have hins : ∀ c ∈ memInsert m p v, P c.1 := by
    clear sp
    induction m with
    | nil => intro c hc; simp [memInsert] at hc; simpa [hc] using hp
    | cons d m ih =>
      obtain ⟨a, w⟩ := d
      simp only [List.mem_cons, forall_eq_or_imp] at h
      simp only [memInsert]
      split
      · simpa [hp] using h
      · split
        · simpa [hp] using h.2
        · simpa [h.1] using ih h.2
  simp only [memWrite]
  split
  · intro c hc
    exact h c (List.mem_filter.1 hc).1
  · exact hins

theorem memBelow_cells (m : Memory) (n : Nat) : ∀ c ∈ memBelow m n, c.1 < n := by
  intro c hc
  simpa using (List.mem_filter.1 hc).2

theorem memRead_ne_none_of_mem {sp : Space} {m : Memory} {c : Host.Cell} (h : c ∈ m) : memRead sp m c.1 ≠ none := by
  have : memLookup m c.1 ≠ none := by
    induction m with
    | nil => simp at h
    | cons d m ih =>
      obtain ⟨a, w⟩ := d
      simp only [memLookup]
      split
      · simp
      · rename_i hne
        rcases List.mem_cons.1 h with rfl | h
        · simp at hne
        · exact ih h
  simp only [memRead]
  split
  · simp
  · contradiction

/-- Two canonical memories that read alike everywhere are equal data. -/
theorem memory_ext {sp : Space} {m m' : Memory} (h : Memory.wf sp m = true) (h' : Memory.wf sp m' = true)
    (hr : ∀ p, memRead sp m p = memRead sp m' p) : m = m' := by
  have key : ∀ (m m' : Memory) (lo : Nat), memCanonical sp lo m = true → memCanonical sp lo m' = true →
      (∀ p, memRead sp m p = memRead sp m' p) → m = m' := by
    intro m
    induction m with
    | nil =>
      intro m' lo _ h' hr
      cases m' with
      | nil => rfl
      | cons c m' =>
        obtain ⟨a, w⟩ := c
        simp only [memCanonical, Bool.and_eq_true, decide_eq_true_eq] at h'
        have := hr a
        simp [memRead, memLookup] at this
        exact absurd this h'.1.2
    | cons c m ih =>
      obtain ⟨a, w⟩ := c
      intro m' lo h h' hr
      simp only [memCanonical, Bool.and_eq_true, decide_eq_true_eq] at h
      have hla : memLookup m a = none := memLookup_of_canonical_lt h.2 (by omega)
      cases m' with
      | nil =>
        have := hr a
        simp [memRead, memLookup] at this
        exact absurd this.symm h.1.2
      | cons d m' =>
        obtain ⟨b, x⟩ := d
        simp only [memCanonical, Bool.and_eq_true, decide_eq_true_eq] at h'
        have hlb : memLookup m' b = none := memLookup_of_canonical_lt h'.2 (by omega)
        have hab : a = b := by
          rcases Nat.lt_trichotomy a b with hlt | heq | hgt
          · have := hr a
            have hn : memLookup m' a = none := memLookup_of_canonical_lt h'.2 (by omega)
            simp [memRead, memLookup, hn, show ¬ b = a by omega] at this
            exact absurd this.symm h.1.2
          · exact heq
          · have := hr b
            have hn : memLookup m b = none := memLookup_of_canonical_lt h.2 (by omega)
            simp [memRead, memLookup, hn, show ¬ a = b by omega] at this
            exact absurd this h'.1.2
        subst b
        have hwx : w = x := by
          have := hr a
          simpa [memRead, memLookup] using this
        subst x
        have : m = m' := ih m' (a + 1) h.2 h'.2 (by
          intro p
          by_cases hp : a = p
          · subst p; simp [memRead, hla, hlb]
          · have := hr p
            simpa [memRead, memLookup, hp] using this)
        rw [this]
  exact key m m' 0 h h' hr

end Sys2Proof.Machine
end

