-- ==== Sys2Proof/Laws/State.lean ====
section
/-! SUPPORT. What each shared update of the state does to each field: one lemma per field and update, true by definition. -/

namespace Sys2Proof.Machine

/-! ## `stopRun` -/

@[simp] theorem stopRun_cfg (st : Status) (s : State) : (stopRun st s).cfg = s.cfg := rfl
@[simp] theorem stopRun_src (st : Status) (s : State) : (stopRun st s).src = s.src := rfl
@[simp] theorem stopRun_srcLen (st : Status) (s : State) : (stopRun st s).srcLen = s.srcLen := rfl
@[simp] theorem stopRun_dst (st : Status) (s : State) : (stopRun st s).dst = s.dst := rfl
@[simp] theorem stopRun_dstCap (st : Status) (s : State) : (stopRun st s).dstCap = s.dstCap := rfl
@[simp] theorem stopRun_srcPos (st : Status) (s : State) : (stopRun st s).srcPos = s.srcPos := rfl
@[simp] theorem stopRun_dstPos (st : Status) (s : State) : (stopRun st s).dstPos = s.dstPos := rfl
@[simp] theorem stopRun_blk (st : Status) (s : State) : (stopRun st s).blk = s.blk := rfl
@[simp] theorem stopRun_status (st : Status) (s : State) : (stopRun st s).status = st := rfl
@[simp] theorem stopRun_cause (st : Status) (s : State) : (stopRun st s).cause = s.cause := rfl
@[simp] theorem stopRun_eosSeen (st : Status) (s : State) : (stopRun st s).eosSeen = s.eosSeen := rfl
@[simp] theorem stopRun_rawRem (st : Status) (s : State) : (stopRun st s).rawRem = s.rawRem := rfl
@[simp] theorem stopRun_vnRawRem (st : Status) (s : State) : (stopRun st s).vnRawRem = s.vnRawRem := rfl
@[simp] theorem stopRun_vnPayRem (st : Status) (s : State) : (stopRun st s).vnPayRem = s.vnPayRem := rfl
@[simp] theorem stopRun_vnD (st : Status) (s : State) : (stopRun st s).vnD = s.vnD := rfl
@[simp] theorem stopRun_vnL (st : Status) (s : State) : (stopRun st s).vnL = s.vnL := rfl
@[simp] theorem stopRun_vnM (st : Status) (s : State) : (stopRun st s).vnM = s.vnM := rfl
@[simp] theorem stopRun_nRem (st : Status) (s : State) : (stopRun st s).nRem = s.nRem := rfl
@[simp] theorem stopRun_litPos (st : Status) (s : State) : (stopRun st s).litPos = s.litPos := rfl
@[simp] theorem stopRun_lmdPay (st : Status) (s : State) : (stopRun st s).lmdPay = s.lmdPay := rfl
@[simp] theorem stopRun_lSt (st : Status) (s : State) : (stopRun st s).lSt = s.lSt := rfl
@[simp] theorem stopRun_mSt (st : Status) (s : State) : (stopRun st s).mSt = s.mSt := rfl
@[simp] theorem stopRun_dSt (st : Status) (s : State) : (stopRun st s).dSt = s.dSt := rfl
@[simp] theorem stopRun_L (st : Status) (s : State) : (stopRun st s).L = s.L := rfl
@[simp] theorem stopRun_M (st : Status) (s : State) : (stopRun st s).M = s.M := rfl
@[simp] theorem stopRun_D (st : Status) (s : State) : (stopRun st s).D = s.D := rfl
@[simp] theorem stopRun_tLit (st : Status) (s : State) : (stopRun st s).tLit = s.tLit := rfl
@[simp] theorem stopRun_tL (st : Status) (s : State) : (stopRun st s).tL = s.tL := rfl
@[simp] theorem stopRun_tM (st : Status) (s : State) : (stopRun st s).tM = s.tM := rfl
@[simp] theorem stopRun_tD (st : Status) (s : State) : (stopRun st s).tD = s.tD := rfl
@[simp] theorem stopRun_lmd (st : Status) (s : State) : (stopRun st s).lmd = s.lmd := rfl
@[simp] theorem stopRun_lit (st : Status) (s : State) : (stopRun st s).lit = s.lit := rfl
@[simp] theorem stopRun_hdr (st : Status) (s : State) : (stopRun st s).hdr = s.hdr := rfl
@[simp] theorem stopRun_hdrFail (st : Status) (s : State) : (stopRun st s).hdrFail = s.hdrFail := rfl
@[simp] theorem stopRun_litrd (st : Status) (s : State) : (stopRun st s).litrd = s.litrd := rfl
@[simp] theorem stopRun_ls (st : Status) (s : State) : (stopRun st s).ls = s.ls := rfl
@[simp] theorem stopRun_phase (st : Status) (s : State) : (stopRun st s).phase = .ready := rfl
@[simp] theorem stopRun_magic (st : Status) (s : State) : (stopRun st s).magic = s.magic := rfl
@[simp] theorem stopRun_freq (st : Status) (s : State) : (stopRun st s).freq = s.freq := rfl
@[simp] theorem stopRun_freqs (st : Status) (s : State) : (stopRun st s).freqs = s.freqs := rfl
@[simp] theorem stopRun_litIdx (st : Status) (s : State) : (stopRun st s).litIdx = s.litIdx := rfl
@[simp] theorem stopRun_lv (st : Status) (s : State) : (stopRun st s).lv = s.lv := rfl
@[simp] theorem stopRun_mv (st : Status) (s : State) : (stopRun st s).mv = s.mv := rfl
@[simp] theorem stopRun_draws (st : Status) (s : State) : (stopRun st s).draws = s.draws := rfl
@[simp] theorem stopRun_cmd (st : Status) (s : State) : (stopRun st s).cmd = s.cmd := rfl

/-! ## `raiseMalformed` -/

@[simp] theorem raiseMalformed_cfg (c : Cause) (s : State) : (raiseMalformed c s).cfg = s.cfg := rfl
@[simp] theorem raiseMalformed_src (c : Cause) (s : State) : (raiseMalformed c s).src = s.src := rfl
@[simp] theorem raiseMalformed_srcLen (c : Cause) (s : State) : (raiseMalformed c s).srcLen = s.srcLen := rfl
@[simp] theorem raiseMalformed_dst (c : Cause) (s : State) : (raiseMalformed c s).dst = s.dst := rfl
@[simp] theorem raiseMalformed_dstCap (c : Cause) (s : State) : (raiseMalformed c s).dstCap = s.dstCap := rfl
@[simp] theorem raiseMalformed_srcPos (c : Cause) (s : State) : (raiseMalformed c s).srcPos = s.srcPos := rfl
@[simp] theorem raiseMalformed_dstPos (c : Cause) (s : State) : (raiseMalformed c s).dstPos = s.dstPos := rfl
@[simp] theorem raiseMalformed_blk (c : Cause) (s : State) : (raiseMalformed c s).blk = s.blk := rfl
@[simp] theorem raiseMalformed_status (c : Cause) (s : State) : (raiseMalformed c s).status = .malformed := rfl
@[simp] theorem raiseMalformed_cause (c : Cause) (s : State) : (raiseMalformed c s).cause = some c := rfl
@[simp] theorem raiseMalformed_eosSeen (c : Cause) (s : State) : (raiseMalformed c s).eosSeen = s.eosSeen := rfl
@[simp] theorem raiseMalformed_rawRem (c : Cause) (s : State) : (raiseMalformed c s).rawRem = s.rawRem := rfl
@[simp] theorem raiseMalformed_vnRawRem (c : Cause) (s : State) : (raiseMalformed c s).vnRawRem = s.vnRawRem := rfl
@[simp] theorem raiseMalformed_vnPayRem (c : Cause) (s : State) : (raiseMalformed c s).vnPayRem = s.vnPayRem := rfl
@[simp] theorem raiseMalformed_vnD (c : Cause) (s : State) : (raiseMalformed c s).vnD = s.vnD := rfl
@[simp] theorem raiseMalformed_vnL (c : Cause) (s : State) : (raiseMalformed c s).vnL = s.vnL := rfl
@[simp] theorem raiseMalformed_vnM (c : Cause) (s : State) : (raiseMalformed c s).vnM = s.vnM := rfl
@[simp] theorem raiseMalformed_nRem (c : Cause) (s : State) : (raiseMalformed c s).nRem = s.nRem := rfl
@[simp] theorem raiseMalformed_litPos (c : Cause) (s : State) : (raiseMalformed c s).litPos = s.litPos := rfl
@[simp] theorem raiseMalformed_lmdPay (c : Cause) (s : State) : (raiseMalformed c s).lmdPay = s.lmdPay := rfl
@[simp] theorem raiseMalformed_lSt (c : Cause) (s : State) : (raiseMalformed c s).lSt = s.lSt := rfl
@[simp] theorem raiseMalformed_mSt (c : Cause) (s : State) : (raiseMalformed c s).mSt = s.mSt := rfl
@[simp] theorem raiseMalformed_dSt (c : Cause) (s : State) : (raiseMalformed c s).dSt = s.dSt := rfl
@[simp] theorem raiseMalformed_L (c : Cause) (s : State) : (raiseMalformed c s).L = s.L := rfl
@[simp] theorem raiseMalformed_M (c : Cause) (s : State) : (raiseMalformed c s).M = s.M := rfl
@[simp] theorem raiseMalformed_D (c : Cause) (s : State) : (raiseMalformed c s).D = s.D := rfl
@[simp] theorem raiseMalformed_tLit (c : Cause) (s : State) : (raiseMalformed c s).tLit = s.tLit := rfl
@[simp] theorem raiseMalformed_tL (c : Cause) (s : State) : (raiseMalformed c s).tL = s.tL := rfl
@[simp] theorem raiseMalformed_tM (c : Cause) (s : State) : (raiseMalformed c s).tM = s.tM := rfl
@[simp] theorem raiseMalformed_tD (c : Cause) (s : State) : (raiseMalformed c s).tD = s.tD := rfl
@[simp] theorem raiseMalformed_lmd (c : Cause) (s : State) : (raiseMalformed c s).lmd = s.lmd := rfl
@[simp] theorem raiseMalformed_lit (c : Cause) (s : State) : (raiseMalformed c s).lit = s.lit := rfl
@[simp] theorem raiseMalformed_hdr (c : Cause) (s : State) : (raiseMalformed c s).hdr = s.hdr := rfl
@[simp] theorem raiseMalformed_hdrFail (c : Cause) (s : State) : (raiseMalformed c s).hdrFail = s.hdrFail := rfl
@[simp] theorem raiseMalformed_litrd (c : Cause) (s : State) : (raiseMalformed c s).litrd = s.litrd := rfl
@[simp] theorem raiseMalformed_ls (c : Cause) (s : State) : (raiseMalformed c s).ls = s.ls := rfl
@[simp] theorem raiseMalformed_phase (c : Cause) (s : State) : (raiseMalformed c s).phase = s.phase := rfl
@[simp] theorem raiseMalformed_magic (c : Cause) (s : State) : (raiseMalformed c s).magic = s.magic := rfl
@[simp] theorem raiseMalformed_freq (c : Cause) (s : State) : (raiseMalformed c s).freq = s.freq := rfl
@[simp] theorem raiseMalformed_freqs (c : Cause) (s : State) : (raiseMalformed c s).freqs = s.freqs := rfl
@[simp] theorem raiseMalformed_litIdx (c : Cause) (s : State) : (raiseMalformed c s).litIdx = s.litIdx := rfl
@[simp] theorem raiseMalformed_lv (c : Cause) (s : State) : (raiseMalformed c s).lv = s.lv := rfl
@[simp] theorem raiseMalformed_mv (c : Cause) (s : State) : (raiseMalformed c s).mv = s.mv := rfl
@[simp] theorem raiseMalformed_draws (c : Cause) (s : State) : (raiseMalformed c s).draws = s.draws := rfl
@[simp] theorem raiseMalformed_cmd (c : Cause) (s : State) : (raiseMalformed c s).cmd = s.cmd := rfl

/-! ## `latchFault` -/

@[simp] theorem latchFault_cfg (f : Fault) (s : State) : (latchFault f s).cfg = s.cfg := rfl
@[simp] theorem latchFault_src (f : Fault) (s : State) : (latchFault f s).src = s.src := rfl
@[simp] theorem latchFault_srcLen (f : Fault) (s : State) : (latchFault f s).srcLen = s.srcLen := rfl
@[simp] theorem latchFault_dst (f : Fault) (s : State) : (latchFault f s).dst = s.dst := rfl
@[simp] theorem latchFault_dstCap (f : Fault) (s : State) : (latchFault f s).dstCap = s.dstCap := rfl
@[simp] theorem latchFault_srcPos (f : Fault) (s : State) : (latchFault f s).srcPos = s.srcPos := rfl
@[simp] theorem latchFault_dstPos (f : Fault) (s : State) : (latchFault f s).dstPos = s.dstPos := rfl
@[simp] theorem latchFault_blk (f : Fault) (s : State) : (latchFault f s).blk = s.blk := rfl
@[simp] theorem latchFault_status (f : Fault) (s : State) : (latchFault f s).status = .unspec := rfl
@[simp] theorem latchFault_cause (f : Fault) (s : State) : (latchFault f s).cause = some f.cause := rfl
@[simp] theorem latchFault_eosSeen (f : Fault) (s : State) : (latchFault f s).eosSeen = s.eosSeen := rfl
@[simp] theorem latchFault_rawRem (f : Fault) (s : State) : (latchFault f s).rawRem = s.rawRem := rfl
@[simp] theorem latchFault_vnRawRem (f : Fault) (s : State) : (latchFault f s).vnRawRem = s.vnRawRem := rfl
@[simp] theorem latchFault_vnPayRem (f : Fault) (s : State) : (latchFault f s).vnPayRem = s.vnPayRem := rfl
@[simp] theorem latchFault_vnD (f : Fault) (s : State) : (latchFault f s).vnD = s.vnD := rfl
@[simp] theorem latchFault_vnL (f : Fault) (s : State) : (latchFault f s).vnL = s.vnL := rfl
@[simp] theorem latchFault_vnM (f : Fault) (s : State) : (latchFault f s).vnM = s.vnM := rfl
@[simp] theorem latchFault_nRem (f : Fault) (s : State) : (latchFault f s).nRem = s.nRem := rfl
@[simp] theorem latchFault_litPos (f : Fault) (s : State) : (latchFault f s).litPos = s.litPos := rfl
@[simp] theorem latchFault_lmdPay (f : Fault) (s : State) : (latchFault f s).lmdPay = s.lmdPay := rfl
@[simp] theorem latchFault_lSt (f : Fault) (s : State) : (latchFault f s).lSt = s.lSt := rfl
@[simp] theorem latchFault_mSt (f : Fault) (s : State) : (latchFault f s).mSt = s.mSt := rfl
@[simp] theorem latchFault_dSt (f : Fault) (s : State) : (latchFault f s).dSt = s.dSt := rfl
@[simp] theorem latchFault_L (f : Fault) (s : State) : (latchFault f s).L = s.L := rfl
@[simp] theorem latchFault_M (f : Fault) (s : State) : (latchFault f s).M = s.M := rfl
@[simp] theorem latchFault_D (f : Fault) (s : State) : (latchFault f s).D = s.D := rfl
@[simp] theorem latchFault_tLit (f : Fault) (s : State) : (latchFault f s).tLit = s.tLit := rfl
@[simp] theorem latchFault_tL (f : Fault) (s : State) : (latchFault f s).tL = s.tL := rfl
@[simp] theorem latchFault_tM (f : Fault) (s : State) : (latchFault f s).tM = s.tM := rfl
@[simp] theorem latchFault_tD (f : Fault) (s : State) : (latchFault f s).tD = s.tD := rfl
@[simp] theorem latchFault_lmd (f : Fault) (s : State) : (latchFault f s).lmd = s.lmd := rfl
@[simp] theorem latchFault_lit (f : Fault) (s : State) : (latchFault f s).lit = s.lit := rfl
@[simp] theorem latchFault_hdr (f : Fault) (s : State) : (latchFault f s).hdr = s.hdr := rfl
@[simp] theorem latchFault_hdrFail (f : Fault) (s : State) : (latchFault f s).hdrFail = s.hdrFail := rfl
@[simp] theorem latchFault_litrd (f : Fault) (s : State) : (latchFault f s).litrd = s.litrd := rfl
@[simp] theorem latchFault_ls (f : Fault) (s : State) : (latchFault f s).ls = s.ls := rfl
@[simp] theorem latchFault_phase (f : Fault) (s : State) : (latchFault f s).phase = s.phase := rfl
@[simp] theorem latchFault_magic (f : Fault) (s : State) : (latchFault f s).magic = s.magic := rfl
@[simp] theorem latchFault_freq (f : Fault) (s : State) : (latchFault f s).freq = s.freq := rfl
@[simp] theorem latchFault_freqs (f : Fault) (s : State) : (latchFault f s).freqs = s.freqs := rfl
@[simp] theorem latchFault_litIdx (f : Fault) (s : State) : (latchFault f s).litIdx = s.litIdx := rfl
@[simp] theorem latchFault_lv (f : Fault) (s : State) : (latchFault f s).lv = s.lv := rfl
@[simp] theorem latchFault_mv (f : Fault) (s : State) : (latchFault f s).mv = s.mv := rfl
@[simp] theorem latchFault_draws (f : Fault) (s : State) : (latchFault f s).draws = s.draws := rfl
@[simp] theorem latchFault_cmd (f : Fault) (s : State) : (latchFault f s).cmd = s.cmd := rfl

/-! ## `slop` -/

@[simp] theorem slop_cfg (s : State) : (slop s).cfg = s.cfg := rfl
@[simp] theorem slop_src (s : State) : (slop s).src = s.src := rfl
@[simp] theorem slop_srcLen (s : State) : (slop s).srcLen = s.srcLen := rfl
@[simp] theorem slop_dst (s : State) : (slop s).dst = memBelow s.dst s.dstPos := rfl
@[simp] theorem slop_dstCap (s : State) : (slop s).dstCap = s.dstCap := rfl
@[simp] theorem slop_srcPos (s : State) : (slop s).srcPos = s.srcPos := rfl
@[simp] theorem slop_dstPos (s : State) : (slop s).dstPos = s.dstPos := rfl
@[simp] theorem slop_blk (s : State) : (slop s).blk = s.blk := rfl
@[simp] theorem slop_status (s : State) : (slop s).status = s.status := rfl
@[simp] theorem slop_cause (s : State) : (slop s).cause = s.cause := rfl
@[simp] theorem slop_eosSeen (s : State) : (slop s).eosSeen = s.eosSeen := rfl
@[simp] theorem slop_rawRem (s : State) : (slop s).rawRem = s.rawRem := rfl
@[simp] theorem slop_vnRawRem (s : State) : (slop s).vnRawRem = s.vnRawRem := rfl
@[simp] theorem slop_vnPayRem (s : State) : (slop s).vnPayRem = s.vnPayRem := rfl
@[simp] theorem slop_vnD (s : State) : (slop s).vnD = s.vnD := rfl
@[simp] theorem slop_vnL (s : State) : (slop s).vnL = s.vnL := rfl
@[simp] theorem slop_vnM (s : State) : (slop s).vnM = s.vnM := rfl
@[simp] theorem slop_nRem (s : State) : (slop s).nRem = s.nRem := rfl
@[simp] theorem slop_litPos (s : State) : (slop s).litPos = s.litPos := rfl
@[simp] theorem slop_lmdPay (s : State) : (slop s).lmdPay = s.lmdPay := rfl
@[simp] theorem slop_lSt (s : State) : (slop s).lSt = s.lSt := rfl
@[simp] theorem slop_mSt (s : State) : (slop s).mSt = s.mSt := rfl
@[simp] theorem slop_dSt (s : State) : (slop s).dSt = s.dSt := rfl
@[simp] theorem slop_L (s : State) : (slop s).L = s.L := rfl
@[simp] theorem slop_M (s : State) : (slop s).M = s.M := rfl
@[simp] theorem slop_D (s : State) : (slop s).D = s.D := rfl
@[simp] theorem slop_tLit (s : State) : (slop s).tLit = s.tLit := rfl
@[simp] theorem slop_tL (s : State) : (slop s).tL = s.tL := rfl
@[simp] theorem slop_tM (s : State) : (slop s).tM = s.tM := rfl
@[simp] theorem slop_tD (s : State) : (slop s).tD = s.tD := rfl
@[simp] theorem slop_lmd (s : State) : (slop s).lmd = s.lmd := rfl
@[simp] theorem slop_lit (s : State) : (slop s).lit = s.lit := rfl
@[simp] theorem slop_hdr (s : State) : (slop s).hdr = s.hdr := rfl
@[simp] theorem slop_hdrFail (s : State) : (slop s).hdrFail = s.hdrFail := rfl
@[simp] theorem slop_litrd (s : State) : (slop s).litrd = s.litrd := rfl
@[simp] theorem slop_ls (s : State) : (slop s).ls = s.ls := rfl
@[simp] theorem slop_phase (s : State) : (slop s).phase = s.phase := rfl
@[simp] theorem slop_magic (s : State) : (slop s).magic = s.magic := rfl
@[simp] theorem slop_freq (s : State) : (slop s).freq = s.freq := rfl
@[simp] theorem slop_freqs (s : State) : (slop s).freqs = s.freqs := rfl
@[simp] theorem slop_litIdx (s : State) : (slop s).litIdx = s.litIdx := rfl
@[simp] theorem slop_lv (s : State) : (slop s).lv = s.lv := rfl
@[simp] theorem slop_mv (s : State) : (slop s).mv = s.mv := rfl
@[simp] theorem slop_draws (s : State) : (slop s).draws = s.draws + 1 := rfl
@[simp] theorem slop_cmd (s : State) : (slop s).cmd = s.cmd := rfl

/-! ## `setReader_litrd` -/

@[simp] theorem setReader_litrd_cfg (r : BitReader) (s : State) : (setReader .litrd r s).cfg = s.cfg := rfl
@[simp] theorem setReader_litrd_src (r : BitReader) (s : State) : (setReader .litrd r s).src = s.src := rfl
@[simp] theorem setReader_litrd_srcLen (r : BitReader) (s : State) : (setReader .litrd r s).srcLen = s.srcLen := rfl
@[simp] theorem setReader_litrd_dst (r : BitReader) (s : State) : (setReader .litrd r s).dst = s.dst := rfl
@[simp] theorem setReader_litrd_dstCap (r : BitReader) (s : State) : (setReader .litrd r s).dstCap = s.dstCap := rfl
@[simp] theorem setReader_litrd_srcPos (r : BitReader) (s : State) : (setReader .litrd r s).srcPos = s.srcPos := rfl
@[simp] theorem setReader_litrd_dstPos (r : BitReader) (s : State) : (setReader .litrd r s).dstPos = s.dstPos := rfl
@[simp] theorem setReader_litrd_blk (r : BitReader) (s : State) : (setReader .litrd r s).blk = s.blk := rfl
@[simp] theorem setReader_litrd_status (r : BitReader) (s : State) : (setReader .litrd r s).status = s.status := rfl
@[simp] theorem setReader_litrd_cause (r : BitReader) (s : State) : (setReader .litrd r s).cause = s.cause := rfl
@[simp] theorem setReader_litrd_eosSeen (r : BitReader) (s : State) : (setReader .litrd r s).eosSeen = s.eosSeen := rfl
@[simp] theorem setReader_litrd_rawRem (r : BitReader) (s : State) : (setReader .litrd r s).rawRem = s.rawRem := rfl
@[simp] theorem setReader_litrd_vnRawRem (r : BitReader) (s : State) : (setReader .litrd r s).vnRawRem = s.vnRawRem := rfl
@[simp] theorem setReader_litrd_vnPayRem (r : BitReader) (s : State) : (setReader .litrd r s).vnPayRem = s.vnPayRem := rfl
@[simp] theorem setReader_litrd_vnD (r : BitReader) (s : State) : (setReader .litrd r s).vnD = s.vnD := rfl
@[simp] theorem setReader_litrd_vnL (r : BitReader) (s : State) : (setReader .litrd r s).vnL = s.vnL := rfl
@[simp] theorem setReader_litrd_vnM (r : BitReader) (s : State) : (setReader .litrd r s).vnM = s.vnM := rfl
@[simp] theorem setReader_litrd_nRem (r : BitReader) (s : State) : (setReader .litrd r s).nRem = s.nRem := rfl
@[simp] theorem setReader_litrd_litPos (r : BitReader) (s : State) : (setReader .litrd r s).litPos = s.litPos := rfl
@[simp] theorem setReader_litrd_lmdPay (r : BitReader) (s : State) : (setReader .litrd r s).lmdPay = s.lmdPay := rfl
@[simp] theorem setReader_litrd_lSt (r : BitReader) (s : State) : (setReader .litrd r s).lSt = s.lSt := rfl
@[simp] theorem setReader_litrd_mSt (r : BitReader) (s : State) : (setReader .litrd r s).mSt = s.mSt := rfl
@[simp] theorem setReader_litrd_dSt (r : BitReader) (s : State) : (setReader .litrd r s).dSt = s.dSt := rfl
@[simp] theorem setReader_litrd_L (r : BitReader) (s : State) : (setReader .litrd r s).L = s.L := rfl
@[simp] theorem setReader_litrd_M (r : BitReader) (s : State) : (setReader .litrd r s).M = s.M := rfl
@[simp] theorem setReader_litrd_D (r : BitReader) (s : State) : (setReader .litrd r s).D = s.D := rfl
@[simp] theorem setReader_litrd_tLit (r : BitReader) (s : State) : (setReader .litrd r s).tLit = s.tLit := rfl
@[simp] theorem setReader_litrd_tL (r : BitReader) (s : State) : (setReader .litrd r s).tL = s.tL := rfl
@[simp] theorem setReader_litrd_tM (r : BitReader) (s : State) : (setReader .litrd r s).tM = s.tM := rfl
@[simp] theorem setReader_litrd_tD (r : BitReader) (s : State) : (setReader .litrd r s).tD = s.tD := rfl
@[simp] theorem setReader_litrd_lmd (r : BitReader) (s : State) : (setReader .litrd r s).lmd = s.lmd := rfl
@[simp] theorem setReader_litrd_lit (r : BitReader) (s : State) : (setReader .litrd r s).lit = s.lit := rfl
@[simp] theorem setReader_litrd_hdr (r : BitReader) (s : State) : (setReader .litrd r s).hdr = s.hdr := rfl
@[simp] theorem setReader_litrd_hdrFail (r : BitReader) (s : State) : (setReader .litrd r s).hdrFail = s.hdrFail := rfl
@[simp] theorem setReader_litrd_litrd (r : BitReader) (s : State) : (setReader .litrd r s).litrd = r := rfl
@[simp] theorem setReader_litrd_ls (r : BitReader) (s : State) : (setReader .litrd r s).ls = s.ls := rfl
@[simp] theorem setReader_litrd_phase (r : BitReader) (s : State) : (setReader .litrd r s).phase = s.phase := rfl
@[simp] theorem setReader_litrd_magic (r : BitReader) (s : State) : (setReader .litrd r s).magic = s.magic := rfl
@[simp] theorem setReader_litrd_freq (r : BitReader) (s : State) : (setReader .litrd r s).freq = s.freq := rfl
@[simp] theorem setReader_litrd_freqs (r : BitReader) (s : State) : (setReader .litrd r s).freqs = s.freqs := rfl
@[simp] theorem setReader_litrd_litIdx (r : BitReader) (s : State) : (setReader .litrd r s).litIdx = s.litIdx := rfl
@[simp] theorem setReader_litrd_lv (r : BitReader) (s : State) : (setReader .litrd r s).lv = s.lv := rfl
@[simp] theorem setReader_litrd_mv (r : BitReader) (s : State) : (setReader .litrd r s).mv = s.mv := rfl
@[simp] theorem setReader_litrd_draws (r : BitReader) (s : State) : (setReader .litrd r s).draws = s.draws := rfl
@[simp] theorem setReader_litrd_cmd (r : BitReader) (s : State) : (setReader .litrd r s).cmd = s.cmd := rfl

/-! ## `setReader_lmd` -/

@[simp] theorem setReader_lmd_cfg (r : BitReader) (s : State) : (setReader .lmd r s).cfg = s.cfg := rfl
@[simp] theorem setReader_lmd_src (r : BitReader) (s : State) : (setReader .lmd r s).src = s.src := rfl
@[simp] theorem setReader_lmd_srcLen (r : BitReader) (s : State) : (setReader .lmd r s).srcLen = s.srcLen := rfl
@[simp] theorem setReader_lmd_dst (r : BitReader) (s : State) : (setReader .lmd r s).dst = s.dst := rfl
@[simp] theorem setReader_lmd_dstCap (r : BitReader) (s : State) : (setReader .lmd r s).dstCap = s.dstCap := rfl
@[simp] theorem setReader_lmd_srcPos (r : BitReader) (s : State) : (setReader .lmd r s).srcPos = s.srcPos := rfl
@[simp] theorem setReader_lmd_dstPos (r : BitReader) (s : State) : (setReader .lmd r s).dstPos = s.dstPos := rfl
@[simp] theorem setReader_lmd_blk (r : BitReader) (s : State) : (setReader .lmd r s).blk = s.blk := rfl
@[simp] theorem setReader_lmd_status (r : BitReader) (s : State) : (setReader .lmd r s).status = s.status := rfl
@[simp] theorem setReader_lmd_cause (r : BitReader) (s : State) : (setReader .lmd r s).cause = s.cause := rfl
@[simp] theorem setReader_lmd_eosSeen (r : BitReader) (s : State) : (setReader .lmd r s).eosSeen = s.eosSeen := rfl
@[simp] theorem setReader_lmd_rawRem (r : BitReader) (s : State) : (setReader .lmd r s).rawRem = s.rawRem := rfl
@[simp] theorem setReader_lmd_vnRawRem (r : BitReader) (s : State) : (setReader .lmd r s).vnRawRem = s.vnRawRem := rfl
@[simp] theorem setReader_lmd_vnPayRem (r : BitReader) (s : State) : (setReader .lmd r s).vnPayRem = s.vnPayRem := rfl
@[simp] theorem setReader_lmd_vnD (r : BitReader) (s : State) : (setReader .lmd r s).vnD = s.vnD := rfl
@[simp] theorem setReader_lmd_vnL (r : BitReader) (s : State) : (setReader .lmd r s).vnL = s.vnL := rfl
@[simp] theorem setReader_lmd_vnM (r : BitReader) (s : State) : (setReader .lmd r s).vnM = s.vnM := rfl
@[simp] theorem setReader_lmd_nRem (r : BitReader) (s : State) : (setReader .lmd r s).nRem = s.nRem := rfl
@[simp] theorem setReader_lmd_litPos (r : BitReader) (s : State) : (setReader .lmd r s).litPos = s.litPos := rfl
@[simp] theorem setReader_lmd_lmdPay (r : BitReader) (s : State) : (setReader .lmd r s).lmdPay = s.lmdPay := rfl
@[simp] theorem setReader_lmd_lSt (r : BitReader) (s : State) : (setReader .lmd r s).lSt = s.lSt := rfl
@[simp] theorem setReader_lmd_mSt (r : BitReader) (s : State) : (setReader .lmd r s).mSt = s.mSt := rfl
@[simp] theorem setReader_lmd_dSt (r : BitReader) (s : State) : (setReader .lmd r s).dSt = s.dSt := rfl
@[simp] theorem setReader_lmd_L (r : BitReader) (s : State) : (setReader .lmd r s).L = s.L := rfl
@[simp] theorem setReader_lmd_M (r : BitReader) (s : State) : (setReader .lmd r s).M = s.M := rfl
@[simp] theorem setReader_lmd_D (r : BitReader) (s : State) : (setReader .lmd r s).D = s.D := rfl
@[simp] theorem setReader_lmd_tLit (r : BitReader) (s : State) : (setReader .lmd r s).tLit = s.tLit := rfl
@[simp] theorem setReader_lmd_tL (r : BitReader) (s : State) : (setReader .lmd r s).tL = s.tL := rfl
@[simp] theorem setReader_lmd_tM (r : BitReader) (s : State) : (setReader .lmd r s).tM = s.tM := rfl
@[simp] theorem setReader_lmd_tD (r : BitReader) (s : State) : (setReader .lmd r s).tD = s.tD := rfl
@[simp] theorem setReader_lmd_lmd (r : BitReader) (s : State) : (setReader .lmd r s).lmd = r := rfl
@[simp] theorem setReader_lmd_lit (r : BitReader) (s : State) : (setReader .lmd r s).lit = s.lit := rfl
@[simp] theorem setReader_lmd_hdr (r : BitReader) (s : State) : (setReader .lmd r s).hdr = s.hdr := rfl
@[simp] theorem setReader_lmd_hdrFail (r : BitReader) (s : State) : (setReader .lmd r s).hdrFail = s.hdrFail := rfl
@[simp] theorem setReader_lmd_litrd (r : BitReader) (s : State) : (setReader .lmd r s).litrd = s.litrd := rfl
@[simp] theorem setReader_lmd_ls (r : BitReader) (s : State) : (setReader .lmd r s).ls = s.ls := rfl
@[simp] theorem setReader_lmd_phase (r : BitReader) (s : State) : (setReader .lmd r s).phase = s.phase := rfl
@[simp] theorem setReader_lmd_magic (r : BitReader) (s : State) : (setReader .lmd r s).magic = s.magic := rfl
@[simp] theorem setReader_lmd_freq (r : BitReader) (s : State) : (setReader .lmd r s).freq = s.freq := rfl
@[simp] theorem setReader_lmd_freqs (r : BitReader) (s : State) : (setReader .lmd r s).freqs = s.freqs := rfl
@[simp] theorem setReader_lmd_litIdx (r : BitReader) (s : State) : (setReader .lmd r s).litIdx = s.litIdx := rfl
@[simp] theorem setReader_lmd_lv (r : BitReader) (s : State) : (setReader .lmd r s).lv = s.lv := rfl
@[simp] theorem setReader_lmd_mv (r : BitReader) (s : State) : (setReader .lmd r s).mv = s.mv := rfl
@[simp] theorem setReader_lmd_draws (r : BitReader) (s : State) : (setReader .lmd r s).draws = s.draws := rfl
@[simp] theorem setReader_lmd_cmd (r : BitReader) (s : State) : (setReader .lmd r s).cmd = s.cmd := rfl

/-! ## `vnTake` -/

@[simp] theorem vnTake_cfg (ns nd : Nat) (s : State) : (vnTake ns nd s).cfg = s.cfg := rfl
@[simp] theorem vnTake_src (ns nd : Nat) (s : State) : (vnTake ns nd s).src = s.src := rfl
@[simp] theorem vnTake_srcLen (ns nd : Nat) (s : State) : (vnTake ns nd s).srcLen = s.srcLen := rfl
@[simp] theorem vnTake_dst (ns nd : Nat) (s : State) : (vnTake ns nd s).dst = s.dst := rfl
@[simp] theorem vnTake_dstCap (ns nd : Nat) (s : State) : (vnTake ns nd s).dstCap = s.dstCap := rfl
@[simp] theorem vnTake_srcPos (ns nd : Nat) (s : State) : (vnTake ns nd s).srcPos = s.srcPos + ns := rfl
@[simp] theorem vnTake_dstPos (ns nd : Nat) (s : State) : (vnTake ns nd s).dstPos = s.dstPos + nd := rfl
@[simp] theorem vnTake_blk (ns nd : Nat) (s : State) : (vnTake ns nd s).blk = s.blk := rfl
@[simp] theorem vnTake_status (ns nd : Nat) (s : State) : (vnTake ns nd s).status = s.status := rfl
@[simp] theorem vnTake_cause (ns nd : Nat) (s : State) : (vnTake ns nd s).cause = s.cause := rfl
@[simp] theorem vnTake_eosSeen (ns nd : Nat) (s : State) : (vnTake ns nd s).eosSeen = s.eosSeen := rfl
@[simp] theorem vnTake_rawRem (ns nd : Nat) (s : State) : (vnTake ns nd s).rawRem = s.rawRem := rfl
@[simp] theorem vnTake_vnRawRem (ns nd : Nat) (s : State) : (vnTake ns nd s).vnRawRem = s.vnRawRem - nd := rfl
@[simp] theorem vnTake_vnPayRem (ns nd : Nat) (s : State) : (vnTake ns nd s).vnPayRem = s.vnPayRem - ns := rfl
@[simp] theorem vnTake_vnD (ns nd : Nat) (s : State) : (vnTake ns nd s).vnD = s.vnD := rfl
@[simp] theorem vnTake_vnL (ns nd : Nat) (s : State) : (vnTake ns nd s).vnL = s.vnL := rfl
@[simp] theorem vnTake_vnM (ns nd : Nat) (s : State) : (vnTake ns nd s).vnM = s.vnM := rfl
@[simp] theorem vnTake_nRem (ns nd : Nat) (s : State) : (vnTake ns nd s).nRem = s.nRem := rfl
@[simp] theorem vnTake_litPos (ns nd : Nat) (s : State) : (vnTake ns nd s).litPos = s.litPos := rfl
@[simp] theorem vnTake_lmdPay (ns nd : Nat) (s : State) : (vnTake ns nd s).lmdPay = s.lmdPay := rfl
@[simp] theorem vnTake_lSt (ns nd : Nat) (s : State) : (vnTake ns nd s).lSt = s.lSt := rfl
@[simp] theorem vnTake_mSt (ns nd : Nat) (s : State) : (vnTake ns nd s).mSt = s.mSt := rfl
@[simp] theorem vnTake_dSt (ns nd : Nat) (s : State) : (vnTake ns nd s).dSt = s.dSt := rfl
@[simp] theorem vnTake_L (ns nd : Nat) (s : State) : (vnTake ns nd s).L = s.L := rfl
@[simp] theorem vnTake_M (ns nd : Nat) (s : State) : (vnTake ns nd s).M = s.M := rfl
@[simp] theorem vnTake_D (ns nd : Nat) (s : State) : (vnTake ns nd s).D = s.D := rfl
@[simp] theorem vnTake_tLit (ns nd : Nat) (s : State) : (vnTake ns nd s).tLit = s.tLit := rfl
@[simp] theorem vnTake_tL (ns nd : Nat) (s : State) : (vnTake ns nd s).tL = s.tL := rfl
@[simp] theorem vnTake_tM (ns nd : Nat) (s : State) : (vnTake ns nd s).tM = s.tM := rfl
@[simp] theorem vnTake_tD (ns nd : Nat) (s : State) : (vnTake ns nd s).tD = s.tD := rfl
@[simp] theorem vnTake_lmd (ns nd : Nat) (s : State) : (vnTake ns nd s).lmd = s.lmd := rfl
@[simp] theorem vnTake_lit (ns nd : Nat) (s : State) : (vnTake ns nd s).lit = s.lit := rfl
@[simp] theorem vnTake_hdr (ns nd : Nat) (s : State) : (vnTake ns nd s).hdr = s.hdr := rfl
@[simp] theorem vnTake_hdrFail (ns nd : Nat) (s : State) : (vnTake ns nd s).hdrFail = s.hdrFail := rfl
@[simp] theorem vnTake_litrd (ns nd : Nat) (s : State) : (vnTake ns nd s).litrd = s.litrd := rfl
@[simp] theorem vnTake_ls (ns nd : Nat) (s : State) : (vnTake ns nd s).ls = s.ls := rfl
@[simp] theorem vnTake_phase (ns nd : Nat) (s : State) : (vnTake ns nd s).phase = s.phase := rfl
@[simp] theorem vnTake_magic (ns nd : Nat) (s : State) : (vnTake ns nd s).magic = s.magic := rfl
@[simp] theorem vnTake_freq (ns nd : Nat) (s : State) : (vnTake ns nd s).freq = s.freq := rfl
@[simp] theorem vnTake_freqs (ns nd : Nat) (s : State) : (vnTake ns nd s).freqs = s.freqs := rfl
@[simp] theorem vnTake_litIdx (ns nd : Nat) (s : State) : (vnTake ns nd s).litIdx = s.litIdx := rfl
@[simp] theorem vnTake_lv (ns nd : Nat) (s : State) : (vnTake ns nd s).lv = s.lv := rfl
@[simp] theorem vnTake_mv (ns nd : Nat) (s : State) : (vnTake ns nd s).mv = s.mv := rfl
@[simp] theorem vnTake_draws (ns nd : Nat) (s : State) : (vnTake ns nd s).draws = s.draws := rfl
@[simp] theorem vnTake_cmd (ns nd : Nat) (s : State) : (vnTake ns nd s).cmd = s.cmd := rfl

/-! ## `endBlock` -/

@[simp] theorem endBlock_cfg (s : State) : (endBlock s).cfg = s.cfg := rfl
@[simp] theorem endBlock_src (s : State) : (endBlock s).src = s.src := rfl
@[simp] theorem endBlock_srcLen (s : State) : (endBlock s).srcLen = s.srcLen := rfl
@[simp] theorem endBlock_dst (s : State) : (endBlock s).dst = s.dst := rfl
@[simp] theorem endBlock_dstCap (s : State) : (endBlock s).dstCap = s.dstCap := rfl
@[simp] theorem endBlock_srcPos (s : State) : (endBlock s).srcPos = s.srcPos + s.lmdPay := rfl
@[simp] theorem endBlock_dstPos (s : State) : (endBlock s).dstPos = s.dstPos := rfl
@[simp] theorem endBlock_blk (s : State) : (endBlock s).blk = .none := rfl
@[simp] theorem endBlock_status (s : State) : (endBlock s).status = s.status := rfl
@[simp] theorem endBlock_cause (s : State) : (endBlock s).cause = s.cause := rfl
@[simp] theorem endBlock_eosSeen (s : State) : (endBlock s).eosSeen = s.eosSeen := rfl
@[simp] theorem endBlock_rawRem (s : State) : (endBlock s).rawRem = s.rawRem := rfl
@[simp] theorem endBlock_vnRawRem (s : State) : (endBlock s).vnRawRem = s.vnRawRem := rfl
@[simp] theorem endBlock_vnPayRem (s : State) : (endBlock s).vnPayRem = s.vnPayRem := rfl
@[simp] theorem endBlock_vnD (s : State) : (endBlock s).vnD = s.vnD := rfl
@[simp] theorem endBlock_vnL (s : State) : (endBlock s).vnL = s.vnL := rfl
@[simp] theorem endBlock_vnM (s : State) : (endBlock s).vnM = s.vnM := rfl
@[simp] theorem endBlock_nRem (s : State) : (endBlock s).nRem = s.nRem := rfl
@[simp] theorem endBlock_litPos (s : State) : (endBlock s).litPos = s.litPos := rfl
@[simp] theorem endBlock_lmdPay (s : State) : (endBlock s).lmdPay = s.lmdPay := rfl
@[simp] theorem endBlock_lSt (s : State) : (endBlock s).lSt = s.lSt := rfl
@[simp] theorem endBlock_mSt (s : State) : (endBlock s).mSt = s.mSt := rfl
@[simp] theorem endBlock_dSt (s : State) : (endBlock s).dSt = s.dSt := rfl
@[simp] theorem endBlock_L (s : State) : (endBlock s).L = s.L := rfl
@[simp] theorem endBlock_M (s : State) : (endBlock s).M = s.M := rfl
@[simp] theorem endBlock_D (s : State) : (endBlock s).D = s.D := rfl
@[simp] theorem endBlock_tLit (s : State) : (endBlock s).tLit = s.tLit := rfl
@[simp] theorem endBlock_tL (s : State) : (endBlock s).tL = s.tL := rfl
@[simp] theorem endBlock_tM (s : State) : (endBlock s).tM = s.tM := rfl
@[simp] theorem endBlock_tD (s : State) : (endBlock s).tD = s.tD := rfl
@[simp] theorem endBlock_lmd (s : State) : (endBlock s).lmd = s.lmd := rfl
@[simp] theorem endBlock_lit (s : State) : (endBlock s).lit = s.lit := rfl
@[simp] theorem endBlock_hdr (s : State) : (endBlock s).hdr = s.hdr := rfl
@[simp] theorem endBlock_hdrFail (s : State) : (endBlock s).hdrFail = s.hdrFail := rfl
@[simp] theorem endBlock_litrd (s : State) : (endBlock s).litrd = s.litrd := rfl
@[simp] theorem endBlock_ls (s : State) : (endBlock s).ls = s.ls := rfl
@[simp] theorem endBlock_phase (s : State) : (endBlock s).phase = s.phase := rfl
@[simp] theorem endBlock_magic (s : State) : (endBlock s).magic = s.magic := rfl
@[simp] theorem endBlock_freq (s : State) : (endBlock s).freq = s.freq := rfl
@[simp] theorem endBlock_freqs (s : State) : (endBlock s).freqs = s.freqs := rfl
@[simp] theorem endBlock_litIdx (s : State) : (endBlock s).litIdx = s.litIdx := rfl
@[simp] theorem endBlock_lv (s : State) : (endBlock s).lv = s.lv := rfl
@[simp] theorem endBlock_mv (s : State) : (endBlock s).mv = s.mv := rfl
@[simp] theorem endBlock_draws (s : State) : (endBlock s).draws = s.draws := rfl
@[simp] theorem endBlock_cmd (s : State) : (endBlock s).cmd = s.cmd := rfl

/-! ## Readers -/

@[simp] theorem reader_litrd (s : State) : reader .litrd s = s.litrd := rfl
@[simp] theorem reader_lmd (s : State) : reader .lmd s = s.lmd := rfl

@[simp] theorem reader_setReader_same (w : ReaderId) (r : BitReader) (s : State) : reader w (setReader w r s) = r := by
  cases w <;> rfl

@[simp] theorem setReader_setReader (w : ReaderId) (r q : BitReader) (s : State) :
    setReader w q (setReader w r s) = setReader w q s := by
  cases w <;> rfl

@[simp] theorem setReader_reader (w : ReaderId) (s : State) : setReader w (reader w s) s = s := by
  cases w <;> rfl

/-- What a reader update leaves alone, for either reader. -/
theorem setReader_frame (w : ReaderId) (r : BitReader) (s : State) :
    { setReader w r s with litrd := s.litrd, lmd := s.lmd } = s := by
  cases w <;> rfl

@[simp] theorem srcRead_setReader (w : ReaderId) (r : BitReader) (s : State) (p n : Nat) :
    srcRead (setReader w r s) p n = srcRead s p n := by
  have h : ∀ n p, srcBytes (setReader w r s) n p = srcBytes s n p := by
    intro n
    induction n with
    | zero => intro p; rfl
    | succ n ih => intro p; simp only [srcBytes, ih]; cases w <;> rfl
  simp only [srcRead, h]

/-! ## `resumeState` -/

@[simp] theorem resumeState_cfg (b : Buffers) (s : State) : (resumeState b s).cfg = s.cfg := rfl
@[simp] theorem resumeState_src (b : Buffers) (s : State) : (resumeState b s).src = memLoad .src [] 0 b.src := rfl
@[simp] theorem resumeState_srcLen (b : Buffers) (s : State) : (resumeState b s).srcLen = b.src.length := rfl
@[simp] theorem resumeState_dst (b : Buffers) (s : State) : (resumeState b s).dst = memBelow s.dst s.dstPos := rfl
@[simp] theorem resumeState_dstCap (b : Buffers) (s : State) : (resumeState b s).dstCap = b.dstCap := rfl
@[simp] theorem resumeState_srcPos (b : Buffers) (s : State) : (resumeState b s).srcPos = s.srcPos := rfl
@[simp] theorem resumeState_dstPos (b : Buffers) (s : State) : (resumeState b s).dstPos = s.dstPos := rfl
@[simp] theorem resumeState_blk (b : Buffers) (s : State) : (resumeState b s).blk = s.blk := rfl
@[simp] theorem resumeState_status (b : Buffers) (s : State) : (resumeState b s).status = .running := rfl
@[simp] theorem resumeState_cause (b : Buffers) (s : State) : (resumeState b s).cause = none := rfl
@[simp] theorem resumeState_eosSeen (b : Buffers) (s : State) : (resumeState b s).eosSeen = s.eosSeen := rfl
@[simp] theorem resumeState_rawRem (b : Buffers) (s : State) : (resumeState b s).rawRem = s.rawRem := rfl
@[simp] theorem resumeState_vnRawRem (b : Buffers) (s : State) : (resumeState b s).vnRawRem = s.vnRawRem := rfl
@[simp] theorem resumeState_vnPayRem (b : Buffers) (s : State) : (resumeState b s).vnPayRem = s.vnPayRem := rfl
@[simp] theorem resumeState_vnD (b : Buffers) (s : State) : (resumeState b s).vnD = s.vnD := rfl
@[simp] theorem resumeState_vnL (b : Buffers) (s : State) : (resumeState b s).vnL = s.vnL := rfl
@[simp] theorem resumeState_vnM (b : Buffers) (s : State) : (resumeState b s).vnM = s.vnM := rfl
@[simp] theorem resumeState_nRem (b : Buffers) (s : State) : (resumeState b s).nRem = s.nRem := rfl
@[simp] theorem resumeState_litPos (b : Buffers) (s : State) : (resumeState b s).litPos = s.litPos := rfl
@[simp] theorem resumeState_lmdPay (b : Buffers) (s : State) : (resumeState b s).lmdPay = s.lmdPay := rfl
@[simp] theorem resumeState_lSt (b : Buffers) (s : State) : (resumeState b s).lSt = s.lSt := rfl
@[simp] theorem resumeState_mSt (b : Buffers) (s : State) : (resumeState b s).mSt = s.mSt := rfl
@[simp] theorem resumeState_dSt (b : Buffers) (s : State) : (resumeState b s).dSt = s.dSt := rfl
@[simp] theorem resumeState_L (b : Buffers) (s : State) : (resumeState b s).L = s.L := rfl
@[simp] theorem resumeState_M (b : Buffers) (s : State) : (resumeState b s).M = s.M := rfl
@[simp] theorem resumeState_D (b : Buffers) (s : State) : (resumeState b s).D = s.D := rfl
@[simp] theorem resumeState_tLit (b : Buffers) (s : State) : (resumeState b s).tLit = s.tLit := rfl
@[simp] theorem resumeState_tL (b : Buffers) (s : State) : (resumeState b s).tL = s.tL := rfl
@[simp] theorem resumeState_tM (b : Buffers) (s : State) : (resumeState b s).tM = s.tM := rfl
@[simp] theorem resumeState_tD (b : Buffers) (s : State) : (resumeState b s).tD = s.tD := rfl
@[simp] theorem resumeState_lmd (b : Buffers) (s : State) : (resumeState b s).lmd = s.lmd := rfl
@[simp] theorem resumeState_lit (b : Buffers) (s : State) : (resumeState b s).lit = s.lit := rfl
@[simp] theorem resumeState_hdr (b : Buffers) (s : State) : (resumeState b s).hdr = s.hdr := rfl
@[simp] theorem resumeState_hdrFail (b : Buffers) (s : State) : (resumeState b s).hdrFail = s.hdrFail := rfl
@[simp] theorem resumeState_litrd (b : Buffers) (s : State) : (resumeState b s).litrd = s.litrd := rfl
@[simp] theorem resumeState_ls (b : Buffers) (s : State) : (resumeState b s).ls = s.ls := rfl
@[simp] theorem resumeState_phase (b : Buffers) (s : State) : (resumeState b s).phase = s.phase := rfl
@[simp] theorem resumeState_magic (b : Buffers) (s : State) : (resumeState b s).magic = s.magic := rfl
@[simp] theorem resumeState_freq (b : Buffers) (s : State) : (resumeState b s).freq = s.freq := rfl
@[simp] theorem resumeState_freqs (b : Buffers) (s : State) : (resumeState b s).freqs = s.freqs := rfl
@[simp] theorem resumeState_litIdx (b : Buffers) (s : State) : (resumeState b s).litIdx = s.litIdx := rfl
@[simp] theorem resumeState_lv (b : Buffers) (s : State) : (resumeState b s).lv = s.lv := rfl
@[simp] theorem resumeState_mv (b : Buffers) (s : State) : (resumeState b s).mv = s.mv := rfl
@[simp] theorem resumeState_draws (b : Buffers) (s : State) : (resumeState b s).draws = s.draws + 1 := rfl
@[simp] theorem resumeState_cmd (b : Buffers) (s : State) : (resumeState b s).cmd = s.cmd := rfl

/-! ## `startState` -/

@[simp] theorem startState_cfg (b : Buffers) (s : State) :
    (startState b s).cfg = s.cfg := rfl
@[simp] theorem startState_src (b : Buffers) (s : State) :
    (startState b s).src = memLoad .src [] 0 b.src := rfl
@[simp] theorem startState_srcLen (b : Buffers) (s : State) :
    (startState b s).srcLen = b.src.length := rfl
@[simp] theorem startState_dst (b : Buffers) (s : State) :
    (startState b s).dst = (State.initial s.cfg).dst := rfl
@[simp] theorem startState_dstCap (b : Buffers) (s : State) :
    (startState b s).dstCap = b.dstCap := rfl
@[simp] theorem startState_srcPos (b : Buffers) (s : State) :
    (startState b s).srcPos = (State.initial s.cfg).srcPos := rfl
@[simp] theorem startState_dstPos (b : Buffers) (s : State) :
    (startState b s).dstPos = (State.initial s.cfg).dstPos := rfl
@[simp] theorem startState_blk (b : Buffers) (s : State) :
    (startState b s).blk = (State.initial s.cfg).blk := rfl
@[simp] theorem startState_status (b : Buffers) (s : State) :
    (startState b s).status = (State.initial s.cfg).status := rfl
@[simp] theorem startState_cause (b : Buffers) (s : State) :
    (startState b s).cause = (State.initial s.cfg).cause := rfl
@[simp] theorem startState_eosSeen (b : Buffers) (s : State) :
    (startState b s).eosSeen = (State.initial s.cfg).eosSeen := rfl
@[simp] theorem startState_rawRem (b : Buffers) (s : State) :
    (startState b s).rawRem = (State.initial s.cfg).rawRem := rfl
@[simp] theorem startState_vnRawRem (b : Buffers) (s : State) :
    (startState b s).vnRawRem = (State.initial s.cfg).vnRawRem := rfl
@[simp] theorem startState_vnPayRem (b : Buffers) (s : State) :
    (startState b s).vnPayRem = (State.initial s.cfg).vnPayRem := rfl
@[simp] theorem startState_vnD (b : Buffers) (s : State) :
    (startState b s).vnD = (State.initial s.cfg).vnD := rfl
@[simp] theorem startState_vnL (b : Buffers) (s : State) :
    (startState b s).vnL = (State.initial s.cfg).vnL := rfl
@[simp] theorem startState_vnM (b : Buffers) (s : State) :
    (startState b s).vnM = (State.initial s.cfg).vnM := rfl
@[simp] theorem startState_nRem (b : Buffers) (s : State) :
    (startState b s).nRem = (State.initial s.cfg).nRem := rfl
@[simp] theorem startState_litPos (b : Buffers) (s : State) :
    (startState b s).litPos = (State.initial s.cfg).litPos := rfl
@[simp] theorem startState_lmdPay (b : Buffers) (s : State) :
    (startState b s).lmdPay = (State.initial s.cfg).lmdPay := rfl
@[simp] theorem startState_lSt (b : Buffers) (s : State) :
    (startState b s).lSt = (State.initial s.cfg).lSt := rfl
@[simp] theorem startState_mSt (b : Buffers) (s : State) :
    (startState b s).mSt = (State.initial s.cfg).mSt := rfl
@[simp] theorem startState_dSt (b : Buffers) (s : State) :
    (startState b s).dSt = (State.initial s.cfg).dSt := rfl
@[simp] theorem startState_L (b : Buffers) (s : State) :
    (startState b s).L = (State.initial s.cfg).L := rfl
@[simp] theorem startState_M (b : Buffers) (s : State) :
    (startState b s).M = (State.initial s.cfg).M := rfl
@[simp] theorem startState_D (b : Buffers) (s : State) :
    (startState b s).D = (State.initial s.cfg).D := rfl
@[simp] theorem startState_tLit (b : Buffers) (s : State) :
    (startState b s).tLit = (State.initial s.cfg).tLit := rfl
@[simp] theorem startState_tL (b : Buffers) (s : State) :
    (startState b s).tL = (State.initial s.cfg).tL := rfl
@[simp] theorem startState_tM (b : Buffers) (s : State) :
    (startState b s).tM = (State.initial s.cfg).tM := rfl
@[simp] theorem startState_tD (b : Buffers) (s : State) :
    (startState b s).tD = (State.initial s.cfg).tD := rfl
@[simp] theorem startState_lmd (b : Buffers) (s : State) :
    (startState b s).lmd = (State.initial s.cfg).lmd := rfl
@[simp] theorem startState_lit (b : Buffers) (s : State) :
    (startState b s).lit = (State.initial s.cfg).lit := rfl
@[simp] theorem startState_hdr (b : Buffers) (s : State) :
    (startState b s).hdr = (State.initial s.cfg).hdr := rfl
@[simp] theorem startState_hdrFail (b : Buffers) (s : State) :
    (startState b s).hdrFail = (State.initial s.cfg).hdrFail := rfl
@[simp] theorem startState_litrd (b : Buffers) (s : State) :
    (startState b s).litrd = (State.initial s.cfg).litrd := rfl
@[simp] theorem startState_ls (b : Buffers) (s : State) :
    (startState b s).ls = (State.initial s.cfg).ls := rfl
@[simp] theorem startState_phase (b : Buffers) (s : State) :
    (startState b s).phase = (State.initial s.cfg).phase := rfl
@[simp] theorem startState_magic (b : Buffers) (s : State) :
    (startState b s).magic = (State.initial s.cfg).magic := rfl
@[simp] theorem startState_freq (b : Buffers) (s : State) :
    (startState b s).freq = (State.initial s.cfg).freq := rfl
@[simp] theorem startState_freqs (b : Buffers) (s : State) :
    (startState b s).freqs = (State.initial s.cfg).freqs := rfl
@[simp] theorem startState_litIdx (b : Buffers) (s : State) :
    (startState b s).litIdx = (State.initial s.cfg).litIdx := rfl
@[simp] theorem startState_lv (b : Buffers) (s : State) :
    (startState b s).lv = (State.initial s.cfg).lv := rfl
@[simp] theorem startState_mv (b : Buffers) (s : State) :
    (startState b s).mv = (State.initial s.cfg).mv := rfl
@[simp] theorem startState_draws (b : Buffers) (s : State) :
    (startState b s).draws = s.draws + 1 := rfl
@[simp] theorem startState_cmd (b : Buffers) (s : State) :
    (startState b s).cmd = (State.initial s.cfg).cmd := rfl

/-! ## The default parameters -/

theorem default_nLit : Config.default.nLit = 1024 := rfl
theorem default_nL : Config.default.nL = 64 := rfl
theorem default_nM : Config.default.nM = 64 := rfl
theorem default_nD : Config.default.nD = 256 := rfl
theorem default_lTop : Config.default.lTop = 316 := by decide +kernel
theorem default_mTop : Config.default.mTop = 2360 := by decide +kernel
theorem default_dTop : Config.default.dTop = 262140 := by decide +kernel
theorem default_lBits : Config.default.lBits = 14 := by decide +kernel
theorem default_mBits : Config.default.mBits = 17 := by decide +kernel
theorem default_dBits : Config.default.dBits = 23 := by decide +kernel

/-- The default parameters fit the core. -/
theorem default_Wf : Config.default.Wf := by
  unfold Config.Wf
  decide +kernel

/-! ## The bounds of a value table -/

theorem le_maxExtra (extra : List Nat) (i : Nat) : extra.getD i 0 ≤ maxExtra extra := by
  induction extra generalizing i with
  | nil => simp [maxExtra]
  | cons e es ih =>
    cases i with
    | zero => simp [maxExtra]
    | succ i => exact Nat.le_trans (ih i) (by simp [maxExtra])

/-- Every value of every symbol lies below the bound (41_fse.md R186). -/
theorem base_add_le_valueTop (extra base : List Nat) (h : extra.length = base.length) (i : Nat) :
    base.getD i 0 + 2 ^ extra.getD i 0 ≤ valueTop extra base := by
  induction extra generalizing base i with
  | nil =>
    obtain rfl : base = [] := List.eq_nil_of_length_eq_zero h.symm
    simp [valueTop]
  | cons e es ih =>
    cases base with
    | nil => simp at h
    | cons b bs =>
      have ht : valueTop (e :: es) (b :: bs) = max (b + 2 ^ e) (valueTop es bs) := by simp [valueTop]
      rw [ht]
      cases i with
      | zero => simp
      | succ i => exact Nat.le_trans (by simpa using ih bs (by simpa using h) i) (Nat.le_max_right _ _)

theorem valueTop_pos (extra base : List Nat) : 1 ≤ valueTop extra base := by
  unfold valueTop
  induction List.zipWith (fun e b => b + 2 ^ e) extra base with
  | nil => simp
  | cons a as ih => exact Nat.le_trans ih (by simp)

end Sys2Proof.Machine
end

