-- ==== Sys2Proof/Laws/Ops.lean ====
section
/-! SUPPORT. One specification lemma for each shared operation: the sequencing of results, the accesses, the copies, the
reader, and the accounting. Later proofs cite these and do not unfold the operations. -/

namespace Sys2Proof.Machine

/-! ## Results -/

section Results
variable {α β : Type}

@[simp] theorem Res.bind_ok (a : α) (s : State) (k : α → State → Res β) : (Res.ok a s).bind k = k a s := rfl
@[simp] theorem Res.bind_ended (s : State) (k : α → State → Res β) : (Res.ended s).bind k = .ended s := rfl
@[simp] theorem Res.bind_fault (f : Fault) (k : α → State → Res β) : (Res.fault f).bind k = .fault f := rfl

theorem Res.bind_eq_ok {r : Res α} {k : α → State → Res β} {b : β} {t : State} :
    r.bind k = .ok b t ↔ ∃ a s, r = .ok a s ∧ k a s = .ok b t := by
  cases r <;> simp [Res.bind]

theorem Res.bind_eq_ended {r : Res α} {k : α → State → Res β} {t : State} :
    r.bind k = .ended t ↔ r = .ended t ∨ ∃ a s, r = .ok a s ∧ k a s = .ended t := by
  cases r <;> simp [Res.bind]

theorem Res.bind_eq_fault {r : Res α} {k : α → State → Res β} {f : Fault} :
    r.bind k = .fault f ↔ r = .fault f ∨ ∃ a s, r = .ok a s ∧ k a s = .fault f := by
  cases r <;> simp [Res.bind]

@[simp] theorem Res.out_ok (u : Unit) (s : State) : (Res.ok u s).out = .next s := rfl
@[simp] theorem Res.out_ended (s : State) : (Res.ended s : Res Unit).out = .next s := rfl
@[simp] theorem Res.out_fault (f : Fault) : (Res.fault f : Res Unit).out = .fault f := rfl

theorem Res.out_eq_next {r : Res Unit} {t : State} : r.out = .next t ↔ r = .ok () t ∨ r = .ended t := by
  cases r <;> simp [Res.out]

theorem Res.out_eq_fault {r : Res Unit} {f : Fault} : r.out = .fault f ↔ r = .fault f := by
  cases r <;> simp [Res.out]

end Results

/-! ## SRC -/

/-- A byte of SRC exists exactly below `src_len`. -/
theorem srcByte_isSome_iff (s : State) (p : Nat) : (srcByte s p).isSome = true ↔ p < s.srcLen := by
  simp only [srcByte]
  split
  · simp [memRead_src_isSome, *]
  · simp [*]

theorem srcBytes_isSome_iff (s : State) (n p : Nat) :
    (srcBytes s n p).isSome = true ↔ n = 0 ∨ p + n ≤ s.srcLen := by
  induction n generalizing p with
  | zero => simp [srcBytes]
  | succ n ih =>
    have h1 := srcByte_isSome_iff s p
    have h2 := ih (p + 1)
    simp only [srcBytes]
    cases hb : srcByte s p with
    | none => simp [hb] at h1; simp; omega
    | some b =>
      simp [hb] at h1
      cases hbs : srcBytes s n (p + 1) with
      | none => simp [hbs] at h2; simp; omega
      | some bs => simp [hbs] at h2; simp; omega

theorem srcBytes_length {s : State} {n p : Nat} {bs : List Byte} (h : srcBytes s n p = some bs) : bs.length = n := by
  induction n generalizing p bs with
  | zero => simp [srcBytes] at h; simp [← h]
  | succ n ih =>
    simp only [srcBytes] at h
    split at h
    · simp at h
    · split at h
      · simp at h
      · rename_i hbs
        simp only [Option.some.injEq] at h
        subst h
        simp [ih hbs]

/-- Byte `i` of a run of SRC bytes. -/
theorem srcBytes_get {s : State} {n p : Nat} {bs : List Byte} (h : srcBytes s n p = some bs) (i : Nat) (hi : i < n) :
    bs[i]? = srcByte s (p + i) := by
  induction n generalizing p bs i with
  | zero => omega
  | succ n ih =>
    simp only [srcBytes] at h
    split at h
    · simp at h
    · rename_i hb
      split at h
      · simp at h
      · rename_i hbs
        simp only [Option.some.injEq] at h
        subst h
        cases i with
        | zero => simp [hb]
        | succ i =>
          have := ih hbs i (by omega)
          simp only [List.getElem?_cons_succ, this]
          congr 1
          omega

theorem srcRead_isSome (s : State) (p n : Nat) (h : p + n ≤ s.srcLen) : (srcRead s p n).isSome = true := by
  simp only [srcRead, Option.isSome_map]
  exact (srcBytes_isSome_iff s n p).2 (.inr h)

/-! ## Writing one byte of DST -/

theorem dstWrite_eq_ok {p : Nat} {v : Byte} {s t : State} :
    dstWrite p v s = .ok () t ↔ p < s.dstCap ∧ t = { s with dst := memWrite .dst s.dst p v } := by
  simp only [dstWrite]
  split
  · simp [*, eq_comm]
  · simp [*]

theorem dstWrite_ne_ended (p : Nat) (v : Byte) (s t : State) : dstWrite p v s ≠ .ended t := by
  simp only [dstWrite]
  split <;> simp

/-! ## Copies -/

/-- What the copies keep and change: only DST, only the `n` bytes at `dp`, in canonical form and inside the buffer. -/
structure CopyFrame (n dp : Nat) (s t : State) : Prop where
  only_dst : t = { s with dst := t.dst }
  outside : ∀ q, q < dp ∨ dp + n ≤ q → memRead .dst t.dst q = memRead .dst s.dst q
  written : ∀ i < n, memRead .dst t.dst (dp + i) ≠ none
  wf : Memory.wf .dst s.dst = true → Memory.wf .dst t.dst = true
  room : n = 0 ∨ dp + n ≤ s.dstCap

theorem CopyFrame.refl (dp : Nat) (s : State) : CopyFrame 0 dp s s :=
  ⟨rfl, fun _ _ => rfl, fun i hi => absurd hi (Nat.not_lt_zero i), id, .inl rfl⟩

theorem CopyFrame.cons {n dp : Nat} {v : Byte} {s t : State} (hp : dp < s.dstCap)
    (h : CopyFrame n (dp + 1) { s with dst := memWrite .dst s.dst dp v } t) : CopyFrame (n + 1) dp s t where
  only_dst := by rw [h.only_dst]
  outside q hq := by rw [h.outside q (by omega)]; exact memRead_write_other _ _ _ (by omega)
  written i hi := by
    cases i with
    | zero => rw [h.outside _ (by omega)]; simp [memRead_write_same]
    | succ i => rw [show dp + (i + 1) = dp + 1 + i by omega]; exact h.written i (by omega)
  wf hw := h.wf (memWrite_wf hw _ _)
  room := by
    have := h.room
    simp only at this
    omega

theorem CopyFrame.first {n dp : Nat} {v : Byte} {s t : State}
    (h : CopyFrame n (dp + 1) { s with dst := memWrite .dst s.dst dp v } t) : memRead .dst t.dst dp = some v := by
  rw [h.outside _ (by omega)]
  exact memRead_write_same _ _ _ _

theorem copyFromSrc_ok {n sp dp : Nat} {s t : State} (h : copyFromSrc n sp dp s = .ok () t) :
    CopyFrame n dp s t ∧ (n = 0 ∨ sp + n ≤ s.srcLen) ∧ ∀ i < n, memRead .dst t.dst (dp + i) = srcByte s (sp + i) := by
  induction n generalizing sp dp s with
  | zero =>
    simp only [copyFromSrc, Res.ok.injEq, true_and] at h
    subst h
    exact ⟨.refl _ _, .inl rfl, fun i hi => by omega⟩
  | succ n ih =>
    simp only [copyFromSrc] at h
    split at h
    · simp at h
    · rename_i v hv
      obtain ⟨_, s1, h1, h2⟩ := Res.bind_eq_ok.1 h
      obtain ⟨hp, rfl⟩ := dstWrite_eq_ok.1 h1
      obtain ⟨hf, hs, hb⟩ := ih h2
      have hlt : sp < s.srcLen := (srcByte_isSome_iff s sp).1 (by simp [hv])
      refine ⟨hf.cons hp, .inr ?_, ?_⟩
      · simp only at hs
        omega
      · intro i hi
        cases i with
        | zero => simpa [hv] using hf.first
        | succ i =>
          rw [show dp + (i + 1) = dp + 1 + i by omega, hb i (by omega), show sp + (i + 1) = sp + 1 + i by omega]
          rfl

theorem copyFromSrc_runs {n sp dp : Nat} {s : State} (hs : n = 0 ∨ sp + n ≤ s.srcLen)
    (hd : n = 0 ∨ dp + n ≤ s.dstCap) :
    ∃ t, copyFromSrc n sp dp s = .ok () t := by
  induction n generalizing sp dp s with
  | zero => exact ⟨s, rfl⟩
  | succ n ih =>
    have : (srcByte s sp).isSome = true := (srcByte_isSome_iff s sp).2 (by omega)
    obtain ⟨v, hv⟩ := Option.isSome_iff_exists.1 this
    simp only [copyFromSrc, hv, dstWrite, if_pos (show dp < s.dstCap by omega), Res.bind_ok]
    exact ih (by simp only; omega) (by simp only; omega)

theorem copyFromSrc_ne_ended (n sp dp : Nat) (s t : State) : copyFromSrc n sp dp s ≠ .ended t := by
  induction n generalizing sp dp s with
  | zero => simp [copyFromSrc]
  | succ n ih =>
    intro h
    simp only [copyFromSrc] at h
    split at h
    · simp at h
    · rcases Res.bind_eq_ended.1 h with h | ⟨_, s1, -, h⟩
      · exact dstWrite_ne_ended _ _ _ _ h
      · exact ih _ _ _ h

/-- A match copy at a distance that reaches only written bytes: every byte equals the byte `d` before it in the result. -/
theorem copyFromDst_ok {d n dp : Nat} {s t : State} (h : copyFromDst d n dp s = .ok () t) :
    CopyFrame n dp s t ∧ (n = 0 ∨ d ≤ dp) ∧
      (d ≠ 0 → (∀ q, dp - d ≤ q → q < dp → memRead .dst s.dst q ≠ none) →
        ∀ i < n, memRead .dst t.dst (dp + i) = memRead .dst t.dst (dp + i - d)) := by
  induction n generalizing dp s with
  | zero =>
    simp only [copyFromDst, Res.ok.injEq, true_and] at h
    subst h
    exact ⟨.refl _ _, .inl rfl, fun _ _ i hi => by omega⟩
  | succ n ih =>
    simp only [copyFromDst] at h
    split at h
    · simp at h
    · rename_i hle
      split at h
      · simp at h
      · rename_i v hv
        obtain ⟨_, s1, h1, h2⟩ := Res.bind_eq_ok.1 h
        obtain ⟨hp, rfl⟩ := dstWrite_eq_ok.1 h1
        obtain ⟨hf, -, hb⟩ := ih h2
        refine ⟨hf.cons hp, .inr (by omega), ?_⟩
        intro hd hw i hi
        cases i with
        | zero =>
          have hread : memRead .dst s.dst (dp - d) = some v := by
            simp only [dstRead] at hv
            rw [if_pos (show dp - d < s.dstCap by omega)] at hv
            have := hw (dp - d) (by omega) (by omega)
            revert hv
            split
            · intro hv
              simp at hv
              simp [*]
            · contradiction
          rw [Nat.add_zero, hf.first, hf.outside (dp - d) (by omega), memRead_write_other _ _ _ (by omega), hread]
        | succ i =>
          rw [show dp + (i + 1) = dp + 1 + i by omega]
          refine hb hd ?_ i (by omega)
          intro q hq1 hq2
          by_cases hq : q = dp
          · subst q
            simp [memRead_write_same]
          · rw [memRead_write_other _ _ _ hq]
            exact hw q (by omega) (by omega)

theorem copyFromDst_runs {d n dp : Nat} {s : State} (hd : n = 0 ∨ d ≤ dp) (hc : n = 0 ∨ dp + n ≤ s.dstCap) :
    ∃ t, copyFromDst d n dp s = .ok () t := by
  induction n generalizing dp s with
  | zero => exact ⟨s, rfl⟩
  | succ n ih =>
    have hsome : ∃ v, dstRead s (dp - d) = some v := by
      simp only [dstRead]
      rw [if_pos (show dp - d < s.dstCap by omega)]
      split <;> exact ⟨_, rfl⟩
    obtain ⟨v, hv⟩ := hsome
    simp only [copyFromDst, if_neg (show ¬ dp < d by omega), hv, dstWrite, if_pos (show dp < s.dstCap by omega),
      Res.bind_ok]
    exact ih (by omega) (by simp only; omega)

theorem copyFromDst_ne_ended (d n dp : Nat) (s t : State) : copyFromDst d n dp s ≠ .ended t := by
  induction n generalizing dp s with
  | zero => simp [copyFromDst]
  | succ n ih =>
    intro h
    simp only [copyFromDst] at h
    split at h
    · simp at h
    · split at h
      · simp at h
      · rcases Res.bind_eq_ended.1 h with h | ⟨_, s1, -, h⟩
        · exact dstWrite_ne_ended _ _ _ _ h
        · exact ih _ _ h

theorem litRead_eq_ok {i : Nat} {v : Byte} {s t : State} :
    litRead i s = .ok v t ↔ i < litBufSize ∧ memRead .lit s.lit i = some v ∧ t = s := by
  simp only [litRead]
  split
  · cases hm : memRead .lit s.lit i <;> simp [*, eq_comm]
  · simp [*]

theorem litRead_ne_ended (i : Nat) (s t : State) : litRead i s ≠ .ended t := by
  simp only [litRead]
  split
  · split <;> simp
  · simp

theorem copyFromLit_ok {n lp dp : Nat} {s t : State} (h : copyFromLit n lp dp s = .ok () t) :
    CopyFrame n dp s t ∧ (n = 0 ∨ lp + n ≤ litBufSize) ∧
      ∀ i < n, memRead .lit s.lit (lp + i) ≠ none ∧ memRead .dst t.dst (dp + i) = memRead .lit s.lit (lp + i) := by
  induction n generalizing lp dp s with
  | zero =>
    simp only [copyFromLit, Res.ok.injEq, true_and] at h
    subst h
    exact ⟨.refl _ _, .inl rfl, fun i hi => by omega⟩
  | succ n ih =>
    simp only [copyFromLit] at h
    obtain ⟨v, s1, h1, h2⟩ := Res.bind_eq_ok.1 h
    obtain ⟨hl, hv, rfl⟩ := litRead_eq_ok.1 h1
    obtain ⟨_, s2, h3, h4⟩ := Res.bind_eq_ok.1 h2
    obtain ⟨hp, rfl⟩ := dstWrite_eq_ok.1 h3
    obtain ⟨hf, hs, hb⟩ := ih h4
    refine ⟨hf.cons hp, .inr (by omega), ?_⟩
    intro i hi
    cases i with
    | zero => simpa [hv] using hf.first
    | succ i =>
      have := hb i (by omega)
      rw [show dp + (i + 1) = dp + 1 + i by omega, show lp + (i + 1) = lp + 1 + i by omega]
      exact this

theorem copyFromLit_runs {n lp dp : Nat} {s : State} (hl : n = 0 ∨ lp + n ≤ litBufSize)
    (hd : n = 0 ∨ dp + n ≤ s.dstCap)
    (hw : ∀ i < n, memRead .lit s.lit (lp + i) ≠ none) : ∃ t, copyFromLit n lp dp s = .ok () t := by
  induction n generalizing lp dp s with
  | zero => exact ⟨s, rfl⟩
  | succ n ih =>
    obtain ⟨v, hv⟩ := Option.ne_none_iff_exists'.1 (hw 0 (by omega))
    rw [Nat.add_zero] at hv
    simp only [copyFromLit, litRead, if_pos (show lp < litBufSize by omega), hv, Res.bind_ok, dstWrite,
      if_pos (show dp < s.dstCap by omega)]
    refine ih (by omega) (by simp only; omega) ?_
    intro i hi
    have := hw (i + 1) (by omega)
    rwa [show lp + (i + 1) = lp + 1 + i by omega] at this

theorem copyFromLit_ne_ended (n lp dp : Nat) (s t : State) : copyFromLit n lp dp s ≠ .ended t := by
  induction n generalizing lp dp s with
  | zero => simp [copyFromLit]
  | succ n ih =>
    intro h
    simp only [copyFromLit] at h
    rcases Res.bind_eq_ended.1 h with h | ⟨v, s1, -, h⟩
    · exact litRead_ne_ended _ _ _ h
    · rcases Res.bind_eq_ended.1 h with h | ⟨_, s2, -, h⟩
      · exact dstWrite_ne_ended _ _ _ _ h
      · exact ih _ _ _ h

/-! ## The bit reader -/

theorem flushAdd_range (n : Nat) (h : n ≤ 63) : 56 ≤ n + flushAdd n ∧ n + flushAdd n ≤ 63 ∧ flushAdd n % 8 = 0 := by
  simp only [flushAdd]
  omega

/-- Everything a flush that goes on can do. -/
theorem flush_ok {w : ReaderId} {s t : State} (h : flush w s = .ok () t) :
    (reader w s).lower + flushAdd (reader w s).nbits / 8 ≤ (reader w s).pos ∧
    ∃ v, srcRead s ((reader w s).pos - flushAdd (reader w s).nbits / 8) (flushAdd (reader w s).nbits / 8) = some v ∧
      t = setReader w
        { reader w s with
          acc := ((reader w s).acc <<< flushAdd (reader w s).nbits) ||| v
          nbits := (reader w s).nbits + flushAdd (reader w s).nbits
          pos := (reader w s).pos - flushAdd (reader w s).nbits / 8 } s := by
  simp only [flush] at h
  split at h
  · simp at h
  · split at h
    · simp at h
    · rename_i v hv
      simp only [Res.ok.injEq, true_and] at h
      exact ⟨by omega, v, hv, h.symm⟩

theorem flush_ended {w : ReaderId} {s t : State} (h : flush w s = .ended t) :
    t = raiseMalformed .bitstreamFlush s ∧
      (reader w s).pos < (reader w s).lower + flushAdd (reader w s).nbits / 8 := by
  simp only [flush] at h
  split at h
  · simp only [Res.ended.injEq] at h
    exact ⟨h.symm, ‹_›⟩
  · split at h <;> simp at h

theorem pull_eq_ok {w : ReaderId} {n b : Nat} {s t : State} :
    pull w n s = .ok b t ↔
      n ≤ (reader w s).nbits ∧ b = (reader w s).acc >>> ((reader w s).nbits - n) ∧
        t = setReader w
          { reader w s with
            acc := lowBits (reader w s).acc ((reader w s).nbits - n)
            nbits := (reader w s).nbits - n } s := by
  simp only [pull]
  split
  · simp; omega
  · simp only [Res.ok.injEq]
    constructor
    · rintro ⟨rfl, rfl⟩
      exact ⟨by omega, rfl, rfl⟩
    · rintro ⟨_, rfl, rfl⟩
      exact ⟨rfl, rfl⟩

theorem pull_ne_ended (w : ReaderId) (n : Nat) (s t : State) : pull w n s ≠ .ended t := by
  simp only [pull]
  split <;> simp

/-! ## LZVN accounting -/

/-- Everything the accounting can do. -/
theorem account_cases (r : VnStop) (s : State) :
    account r s = .ok () s ∨ account r s = .ok () { s with blk := .none } ∨
    account r s = .ended (stopRun .srcEmpty s) ∨ account r s = .ended (stopRun .dstFull s) ∨
    ∃ c, account r s = .ended (raiseMalformed c s) := by
  cases r
  · exact .inl rfl
  · by_cases h : srcAvail s < s.vnPayRem
    · exact .inr (.inr (.inl (by simp only [account, if_pos h])))
    · exact .inr (.inr (.inr (.inr ⟨_, by simp only [account, if_neg h]; rfl⟩)))
  · by_cases h : s.vnRawRem = 0
    · exact .inr (.inr (.inr (.inr ⟨_, by simp only [account, if_pos h]; rfl⟩)))
    · exact .inr (.inr (.inr (.inl (by simp only [account, if_neg h]))))
  · by_cases h : s.vnPayRem = 0 ∧ s.vnRawRem = 0
    · exact .inr (.inl (by simp only [account, if_pos h]))
    · exact .inr (.inr (.inr (.inr ⟨_, by simp only [account, if_neg h]; rfl⟩)))
  · exact .inr (.inr (.inr (.inr ⟨_, rfl⟩)))
  · exact .inr (.inr (.inr (.inr ⟨_, rfl⟩)))

theorem account_ne_fault (r : VnStop) (s : State) (f : Fault) : account r s ≠ .fault f := by
  cases r <;> simp only [account] <;> (try split) <;> simp

end Sys2Proof.Machine
end

