-- ==== Sys2Proof/Laws/Copies.lean ====
section
/-! SUPPORT. What the copies with their cursor moves leave: the literal and match copies of LZVN (44_lzvn.md R326, R327) and
LZFSE (43_lzfse_block.md R281, R282), and the RAW copy (45_dispatcher.md R390), each where the bytes are there. -/

namespace Sys2Proof.Machine

/-- Dropping the bytes above the new cursor keeps what a copy wrote. -/
theorem CopyFrame.below {n dp : Nat} {s t : State} (h : CopyFrame n dp s t) :
    (∀ q < dp, memRead .dst (memBelow t.dst (dp + n)) q = memRead .dst s.dst q) ∧
    (∀ i < n, memRead .dst (memBelow t.dst (dp + n)) (dp + i) = memRead .dst t.dst (dp + i)) ∧
    (∀ q, dp + n ≤ q → memRead .dst (memBelow t.dst (dp + n)) q = none) := by
  refine ⟨?_, ?_, ?_⟩
  · intro q hq
    rw [memRead_below _ _ (by omega), h.outside q (by omega)]
  · intro i hi
    exact memRead_below _ _ (by omega)
  · intro q hq
    exact memRead_below_above _ _ hq

theorem vnLiterals_runs {off n : Nat} {s : State} (hs : n = 0 ∨ s.srcPos + off + n ≤ s.srcLen)
    (hd : n = 0 ∨ s.dstPos + n ≤ s.dstCap) :
    ∃ mem, vnLiterals off n s = .ok () { vnTake (off + n) n s with dst := mem, draws := s.draws + 1 } ∧
      (∀ q < s.dstPos, memRead .dst mem q = memRead .dst s.dst q) ∧
      (∀ i < n, memRead .dst mem (s.dstPos + i) = srcByte s (s.srcPos + off + i)) ∧
      (∀ q, s.dstPos + n ≤ q → memRead .dst mem q = none) := by
  obtain ⟨t, ht⟩ := copyFromSrc_runs hs hd
  obtain ⟨hf, -, hb⟩ := copyFromSrc_ok ht
  obtain ⟨h1, h2, h3⟩ := hf.below
  refine ⟨memBelow t.dst (s.dstPos + n), ?_, h1, fun i hi => by rw [h2 i hi, hb i hi], h3⟩
  rw [vnLiterals, ht, Res.bind_ok, hf.only_dst]
  rfl

theorem vnMatch_runs {n : Nat} {s : State} (h0 : s.vnD ≠ 0) (hle : s.vnD ≤ s.dstPos)
    (hd : n = 0 ∨ s.dstPos + n ≤ s.dstCap)
    (hw : ∀ q < s.dstPos, memRead .dst s.dst q ≠ none) :
    ∃ mem, vnMatch n s = .ok () { vnTake 0 n s with dst := mem, draws := s.draws + 1 } ∧
      (∀ q < s.dstPos, memRead .dst mem q = memRead .dst s.dst q) ∧
      (∀ i < n, memRead .dst mem (s.dstPos + i) = memRead .dst mem (s.dstPos + i - s.vnD)) ∧
      (∀ i < n, memRead .dst mem (s.dstPos + i) ≠ none) ∧
      (∀ q, s.dstPos + n ≤ q → memRead .dst mem q = none) := by
  obtain ⟨t, ht⟩ := copyFromDst_runs (.inr hle) hd
  obtain ⟨hf, -, hb⟩ := copyFromDst_ok ht
  obtain ⟨h1, h2, h3⟩ := hf.below
  refine ⟨memBelow t.dst (s.dstPos + n), ?_, h1, ?_, fun i hi => by rw [h2 i hi]; exact hf.written i hi, h3⟩
  · rw [vnMatch, ht, Res.bind_ok, hf.only_dst]
    rfl
  · intro i hi
    rw [h2 i hi, hb h0 (fun q _ hq => hw q hq) i hi, memRead_below _ _ (by omega)]

theorem copyLit_runs {n : Nat} {s : State} (hl : n = 0 ∨ s.litPos + n ≤ litBufSize)
    (hd : n = 0 ∨ s.dstPos + n ≤ s.dstCap)
    (hw : ∀ i < n, litWritten s (s.litPos + i) = true) :
    ∃ mem, copyLit n s = .ok ()
        { s with dstPos := s.dstPos + n, litPos := s.litPos + n, dst := mem, draws := s.draws + 1 } ∧
      (∀ q < s.dstPos, memRead .dst mem q = memRead .dst s.dst q) ∧
      (∀ i < n, memRead .dst mem (s.dstPos + i) = memRead .lit s.lit (s.litPos + i)) ∧
      (∀ q, s.dstPos + n ≤ q → memRead .dst mem q = none) := by
  obtain ⟨t, ht⟩ := copyFromLit_runs (s := s) hl hd (fun i hi => by
    have := hw i hi
    simp only [litWritten] at this
    intro hn
    simp [hn] at this)
  obtain ⟨hf, -, hb⟩ := copyFromLit_ok ht
  obtain ⟨h1, h2, h3⟩ := hf.below
  refine ⟨memBelow t.dst (s.dstPos + n), ?_, h1, fun i hi => by rw [h2 i hi]; exact (hb i hi).2, h3⟩
  rw [copyLit, ht, Res.bind_ok, hf.only_dst]
  rfl

theorem copyMatch_runs {d n : Nat} {s : State} (h0 : d ≠ 0) (hle : d ≤ s.dstPos)
    (hd : n = 0 ∨ s.dstPos + n ≤ s.dstCap)
    (hw : ∀ q < s.dstPos, memRead .dst s.dst q ≠ none) :
    ∃ mem, copyMatch d n s = .ok () { s with dstPos := s.dstPos + n, dst := mem, draws := s.draws + 1 } ∧
      (∀ q < s.dstPos, memRead .dst mem q = memRead .dst s.dst q) ∧
      (∀ i < n, memRead .dst mem (s.dstPos + i) = memRead .dst mem (s.dstPos + i - d)) ∧
      (∀ q, s.dstPos + n ≤ q → memRead .dst mem q = none) := by
  obtain ⟨t, ht⟩ := copyFromDst_runs (.inr hle) hd
  obtain ⟨hf, -, hb⟩ := copyFromDst_ok ht
  obtain ⟨h1, h2, h3⟩ := hf.below
  refine ⟨memBelow t.dst (s.dstPos + n), ?_, h1, ?_, h3⟩
  · rw [copyMatch, ht, Res.bind_ok, hf.only_dst]
    rfl
  · intro i hi
    rw [h2 i hi, hb h0 (fun q _ hq => hw q hq) i hi, memRead_below _ _ (by omega)]

theorem rawCopy_runs {n : Nat} {s : State} (hn : n = min s.rawRem (min (srcAvail s) (s.dstCap - s.dstPos)))
    (h0 : n ≠ 0) :
    ∃ mem, rawCopy s = .ok ()
        { s with
          srcPos := s.srcPos + n, dstPos := s.dstPos + n, rawRem := s.rawRem - n, dst := mem,
          draws := s.draws + 1 } ∧
      (∀ q < s.dstPos, memRead .dst mem q = memRead .dst s.dst q) ∧
      (∀ i < n, memRead .dst mem (s.dstPos + i) = srcByte s (s.srcPos + i)) ∧
      (∀ q, s.dstPos + n ≤ q → memRead .dst mem q = none) := by
  have hs : s.srcPos + n ≤ s.srcLen := by simp only [srcAvail] at hn; omega
  have hd : s.dstPos + n ≤ s.dstCap := by omega
  obtain ⟨t, ht⟩ := copyFromSrc_runs (.inr hs) (.inr hd)
  obtain ⟨hf, -, hb⟩ := copyFromSrc_ok ht
  obtain ⟨h1, h2, h3⟩ := hf.below
  refine ⟨memBelow t.dst (s.dstPos + n), ?_, h1, fun i hi => by rw [h2 i hi, hb i hi], h3⟩
  rw [rawCopy, ← hn, ht, Res.bind_ok, hf.only_dst]
  rfl

end Sys2Proof.Machine
end

