-- ==== Sys2Proof/Laws/PerInstr.lean ====
section
/-! SUPPORT. Statements made once for each constructor of `Instr`. -/

namespace Sys2Proof.Laws

theorem length_leBytes (n v : Nat) : (leBytes n v).length = n := by
  induction n generalizing v with
  | zero => rfl
  | succ n ih => simp [leBytes, ih]

theorem length_u16Bytes (vs : List Nat) : (u16Bytes vs).length = 2 * vs.length := by
  induction vs with
  | nil => rfl
  | cons v vs ih => simp [u16Bytes, length_leBytes, ih]; omega

/-- The bytes of an instruction without the literal or payload bytes after it (30_encoding.md R101 to R122); a frequency code
is given in whole bytes. -/
def byteLength : Instr → Nat
  | .bvxEos => 4
  | .bvxRaw _ => 8
  | .bvxLzvn _ _ => 12
  | .bvx1 _ => 770
  | .bvx2 _ => 32
  | .smlD _ _ _ => 2
  | .medD _ _ _ => 3
  | .lrgD _ _ _ => 3
  | .preD _ _ => 1
  | .smlM _ => 1
  | .lrgM _ => 2
  | .smlL _ => 1
  | .lrgL _ => 2
  | .nop _ => 1
  | .eos => 8
  | .udef _ => 1
  | .f2 _ => 1
  | .f3 _ => 1
  | .f5 _ => 1
  | .f8 _ => 1
  | .f14 _ => 2
  | .litSym => 0
  | .lVal => 0
  | .mVal => 0
  | .dVal => 0

namespace EncodeLength

/-- A well-formed instruction's encoding has the length its class has. -/
def Statement (i : Instr) : Prop := i.wf = true → (encode i).length = byteLength i

theorem bvxEos : Statement .bvxEos := fun _ => rfl
theorem bvxRaw (n : Nat) : Statement (.bvxRaw n) := fun _ => by simp [encode, length_leBytes, byteLength]
theorem bvxLzvn (n p : Nat) : Statement (.bvxLzvn n p) := fun _ => by simp [encode, length_leBytes, byteLength]
theorem bvx1 (h : V1Header) : Statement (.bvx1 h) := fun hw => by
  have hl : h.freqs.length = 360 := by
    simp only [Instr.wf, V1Header.wf, Bool.and_eq_true, decide_eq_true_eq] at hw
    exact hw.1.2
  simp [encode, encodeV1, lanesBytes, length_leBytes, length_u16Bytes, byteLength, hl]
theorem bvx2 (h : V2Header) : Statement (.bvx2 h) := fun _ => by
  simp [encode, encodeV2, length_leBytes, byteLength]
theorem smlD (l m d : Nat) : Statement (.smlD l m d) := fun _ => by simp [encode, length_leBytes, byteLength]
theorem medD (l m d : Nat) : Statement (.medD l m d) := fun _ => by simp [encode, length_leBytes, byteLength]
theorem lrgD (l m d : Nat) : Statement (.lrgD l m d) := fun _ => by simp [encode, length_leBytes, byteLength]
theorem preD (l m : Nat) : Statement (.preD l m) := fun _ => rfl
theorem smlM (m : Nat) : Statement (.smlM m) := fun _ => rfl
theorem lrgM (m : Nat) : Statement (.lrgM m) := fun _ => rfl
theorem smlL (l : Nat) : Statement (.smlL l) := fun _ => rfl
theorem lrgL (l : Nat) : Statement (.lrgL l) := fun _ => rfl
theorem nop (o : Byte) : Statement (.nop o) := fun _ => rfl
theorem eos : Statement .eos := fun _ => rfl
theorem udef (o : Byte) : Statement (.udef o) := fun _ => rfl
theorem f2 (v : Nat) : Statement (.f2 v) := fun _ => by simp [encode, length_leBytes, byteLength]
theorem f3 (v : Nat) : Statement (.f3 v) := fun _ => by simp [encode, length_leBytes, byteLength]
theorem f5 (v : Nat) : Statement (.f5 v) := fun _ => by simp [encode, length_leBytes, byteLength]
theorem f8 (v : Nat) : Statement (.f8 v) := fun _ => by simp [encode, length_leBytes, byteLength]
theorem f14 (v : Nat) : Statement (.f14 v) := fun _ => by simp [encode, length_leBytes, byteLength]
theorem litSym : Statement .litSym := fun _ => rfl
theorem lVal : Statement .lVal := fun _ => rfl
theorem mVal : Statement .mVal := fun _ => rfl
theorem dVal : Statement .dVal := fun _ => rfl

end EncodeLength

end Sys2Proof.Laws
end

