-- ==== Sys2Proof/Machine/Listing.lean ====
section
/-! DEFINITION. The assembler of the listing syntax of 30_encoding.md R126, over lines already read: each line gives its bytes,
and a field out of range is rejected. It stands beside the machine; no step uses it. -/

namespace Sys2Proof

/-- A line of a listing (R126). `op` is an LZVN line with its literal bytes; `v2` carries the 360 counts of its frequency
stream, none for a header without a stream. -/
inductive Line where
  | eos
  | raw (data : List Byte)
  | lzvn (nRaw nPay : Nat)
  | op (i : Instr) (lits : List Byte)
  | v1 (h : V1Header)
  | v2 (h : V2Header) (freqs : List Nat)
  | litpay (bytes : List Byte)
  | lmdpay (bytes : List Byte)
  | byte (bytes : List Byte)
  deriving DecidableEq, Repr

/-- How many literal bytes an LZVN line carries (R111 to R120); none for what is no LZVN line. -/
def literalCount : Instr → Option Nat
  | .smlD l _ _ => some l
  | .medD l _ _ => some l
  | .lrgD l _ _ => some l
  | .preD l _ => some l
  | .smlL l => some l
  | .lrgL l => some l
  | .smlM _ => some 0
  | .lrgM _ => some 0
  | .nop _ => some 0
  | .eos => some 0
  | _ => none

/-- The code length of a count (R123). -/
def codeLength (v : Nat) : Nat := if v ≤ 1 then 2 else if v ≤ 3 then 3 else if v ≤ 7 then 5 else if v ≤ 23 then 8 else 14

/-- The codes of a list of counts as one number, the first code in the low bits, and its length in bits. -/
def packCodes : List Nat → Nat × Nat
  | [] => (0, 0)
  | v :: vs => (freqCode v + 2 ^ codeLength v * (packCodes vs).1, codeLength v + (packCodes vs).2)

/-- The bytes of a frequency stream (R123, 42_header.md R239); the bits after the last code are 0. -/
def freqStream (vs : List Nat) : List Byte := leBytes (((packCodes vs).2 + 7) / 8) (packCodes vs).1

/-- The bytes of an instruction, if it is well formed. -/
def assembleInstr (i : Instr) : Option (List Byte) := if i.wf then some (encode i) else none

/-- The bytes of a line; none where the assembler rejects it. -/
def assembleLine : Line → Option (List Byte)
  | .eos => assembleInstr .bvxEos
  | .raw data => (assembleInstr (.bvxRaw data.length)).map (· ++ data)
  | .lzvn nRaw nPay => assembleInstr (.bvxLzvn nRaw nPay)
  | .op i lits =>
    if literalCount i = some lits.length then (assembleInstr i).map (· ++ lits) else none
  | .v1 h => assembleInstr (.bvx1 h)
  | .v2 h freqs =>
    if (freqs = [] ∨ freqs.length = nFreqs) ∧ freqs.all (fun v => decide (v ≤ 1047)) ∧
        h.headerSize = v2FixedLen + (freqStream freqs).length then
      (assembleInstr (.bvx2 h)).map (· ++ freqStream freqs)
    else none
  | .litpay bytes => some bytes
  | .lmdpay bytes => some bytes
  | .byte bytes => some bytes

/-- The bytes of a listing. -/
def assemble : List Line → Option (List Byte)
  | [] => some []
  | l :: ls =>
    match assembleLine l with
    | none => none
    | some b => (assemble ls).map (b ++ ·)

end Sys2Proof
end

