-- ==== Sys2Proof/Tests/Slice0.lean ====
section
/-! SUPPORT. Tests of the model, with expected values from spec/30_encoding.md, spec/95_test_vectors.md and hand calculation, and
for every statement with hypotheses a witness that meets them. -/

set_option Elab.async false

namespace Sys2Proof.Tests
open Sys2Proof.Machine

/-! ## Small states -/

/-- A running machine at a block start over `bytes` with room for `cap` bytes. -/
def mk (bytes : List Byte) (cap : Nat) : State :=
  { State.reset with src := memLoad .src [] 0 bytes, srcLen := bytes.length, dstCap := cap }

/-- The machine inside an LZVN block whose payload starts at SRC offset 0. -/
def mkVn (bytes out : List Byte) (cap pay raw d : Nat) : State :=
  { mk bytes cap with
    blk := .lzvn, dst := memLoad .dst [] 0 out, dstPos := out.length, vnPayRem := pay, vnRawRem := raw, vnD := d }

/-- The machine with a decoded triplet, the literals `lits` in LIT from entry 0 and `out` in DST. -/
def mkTriplet (lits out : List Byte) (cap l m : Nat) (d : Option Nat) : State :=
  { mk [] cap with
    blk := .v1, phase := .copy, dst := memLoad .dst [] 0 out, dstPos := out.length, lit := memLoad .lit [] 0 lits,
    L := l, M := m, D := d }

/-- What a test reads of a next state. -/
def seen {α : Type} (o : Host.Outcome State Fault Refusal) (f : State → α) : Option α :=
  match o with
  | .next t => some (f t)
  | _ => none

/-- The fault of an outcome. -/
def faultOf (o : Host.Outcome State Fault Refusal) : Option Fault :=
  match o with
  | .fault f => some f
  | _ => none

/-- The first `n` bytes of DST. -/
def out (n : Nat) (t : State) : List (Option Byte) := (List.range n).map (memRead .dst t.dst)

/-- The reader of a result. -/
def readerOf {α : Type} (w : ReaderId) (r : Res α) : Option (Nat × Nat × Nat) :=
  match r with
  | .ok _ t => some ((reader w t).acc, (reader w t).nbits, (reader w t).pos)
  | _ => none

/-! ## Well-formedness refuses every ill-formed term -/

def zeroV1 : V1Header := ⟨0, 0, 0, 0, 0, 0, 0, .zero, 0, 0, 0, 0, List.replicate 360 0⟩
def zeroV2 : V2Header := ⟨0, 0, 0, 0, 0, .zero, 0, 0, 32, 0, 0, 0⟩

theorem test_wf_headers :
    [Instr.bvxRaw (2 ^ 32), .bvxLzvn (2 ^ 32) 0, .bvxLzvn 0 (2 ^ 32)].map Instr.wf = [false, false, false] := by decide +kernel
theorem test_wf_v1_accepts : zeroV1.wf = true := by decide +kernel
theorem test_wf_v1_refuses :
    [ { zeroV1 with nRaw := 2 ^ 32 }, { zeroV1 with nPayload := 2 ^ 32 }, { zeroV1 with nLiterals := 2 ^ 32 },
      { zeroV1 with nMatches := 2 ^ 32 }, { zeroV1 with nLitPayload := 2 ^ 32 },
      { zeroV1 with nLmdPayload := 2 ^ 32 }, { zeroV1 with literalBits := 2 ^ 31 },
      { zeroV1 with literalBits := -2 ^ 31 - 1 }, { zeroV1 with litState := ⟨0, 0, 0, 65536⟩ },
      { zeroV1 with lmdBits := 2 ^ 31 }, { zeroV1 with lmdBits := -2 ^ 31 - 1 }, { zeroV1 with lState := 65536 },
      { zeroV1 with mState := 65536 }, { zeroV1 with dState := 65536 }, { zeroV1 with freqs := [] },
      { zeroV1 with freqs := List.replicate 359 0 ++ [65536] } ].any V1Header.wf = false := by decide +kernel
theorem test_wf_v2_accepts : zeroV2.wf = true := by decide +kernel
theorem test_wf_v2_refuses :
    [ { zeroV2 with nRaw := 2 ^ 32 }, { zeroV2 with nLiterals := 2 ^ 20 }, { zeroV2 with nLitPayload := 2 ^ 20 },
      { zeroV2 with nMatches := 2 ^ 20 }, { zeroV2 with literalBits := 1 }, { zeroV2 with literalBits := -8 },
      { zeroV2 with litState := ⟨1024, 0, 0, 0⟩ }, { zeroV2 with nLmdPayload := 2 ^ 20 },
      { zeroV2 with lmdBits := 1 }, { zeroV2 with lmdBits := -8 }, { zeroV2 with headerSize := 2 ^ 32 },
      { zeroV2 with lState := 1024 }, { zeroV2 with mState := 1024 }, { zeroV2 with dState := 1024 } ].any V2Header.wf =
      false := by decide +kernel
theorem test_wf_opcodes_refuse :
    [ Instr.smlD 0 2 0, .smlD 0 11 0, .smlD 1 9 0, .smlD 2 7 0, .smlD 3 5 0, .smlD 4 3 0, .smlD 0 3 1536, .medD 4 3 0,
      .medD 0 2 0, .medD 0 35 0, .medD 0 3 16384, .lrgD 0 3 65536, .lrgD 4 3 0, .preD 0 3, .preD 3 5, .smlM 0, .smlM 16,
      .lrgM 15, .lrgM 272, .smlL 0, .smlL 16, .lrgL 15, .lrgL 272, .nop 0x06#8, .udef 0x06#8 ].any Instr.wf =
      false := by decide +kernel
theorem test_wf_codes_refuse :
    [Instr.f2 2, .f3 1, .f3 4, .f5 3, .f5 8, .f8 7, .f8 24, .f14 23, .f14 1048].any Instr.wf = false := by decide +kernel

/-! ## Decoding words written out from the encodings -/

theorem test_decode_bvx_eos : decode .block [0x62#8, 0x76#8, 0x78#8, 0x24#8] = .instr .bvxEos := by decide +kernel
theorem test_decode_bvx_raw :
    decode .block [0x62#8, 0x76#8, 0x78#8, 0x2D#8, 0x05#8, 0#8, 0#8, 0#8, 0x48#8] = .instr (.bvxRaw 5) := by decide +kernel
theorem test_decode_bvxn :
    decode .block [0x62#8, 0x76#8, 0x78#8, 0x6E#8, 1#8, 2#8, 3#8, 4#8, 5#8, 6#8, 7#8, 8#8] =
      .instr (.bvxLzvn 0x04030201 0x08070605) := by decide +kernel
/-- A V1 header with a different value in each field, written out from R105. -/
def v1Bytes : List Byte :=
  [0x62#8, 0x76#8, 0x78#8, 0x31#8] ++ leBytes 4 1 ++ leBytes 4 2 ++ leBytes 4 3 ++ leBytes 4 4 ++ leBytes 4 5 ++
  leBytes 4 6 ++ [0xFF#8, 0xFF#8, 0xFF#8, 0xFF#8] ++ leBytes 2 7 ++ leBytes 2 8 ++ leBytes 2 9 ++ leBytes 2 10 ++
  [0xFE#8, 0xFF#8, 0xFF#8, 0xFF#8] ++ leBytes 2 11 ++ leBytes 2 12 ++ leBytes 2 13 ++ leBytes 2 14 ++
  List.replicate 716 0#8 ++ leBytes 2 15
theorem test_decode_bvx1 :
    decode .block v1Bytes =
      .instr (.bvx1 ⟨1, 2, 3, 4, 5, 6, -1, ⟨7, 8, 9, 10⟩, -2, 11, 12, 13, 14 :: List.replicate 358 0 ++ [15]⟩) := by
  decide +kernel
/-- A V2 fixed part: `v0` holds 1, 2 and 3 at bits 0, 20 and 40 and 6 at 60; `v1` holds 4 to 7 at 0, 10, 20, 30, 8 at 40 and
5 at 60; `v2` holds 40 at 0 and 9 to 11 at 32, 42, 52 (R108). -/
theorem test_decode_bvx2 :
    decode .block
        ([0x62#8, 0x76#8, 0x78#8, 0x32#8] ++ leBytes 4 99 ++ leBytes 8 0x6000030000200001 ++
          leBytes 8 0x50000801C0601404 ++ leBytes 8 0x00B0280900000028) =
      .instr (.bvx2 ⟨99, 1, 2, 3, -1, ⟨4, 5, 6, 7⟩, 8, -2, 40, 9, 10, 11⟩) := by decide +kernel
theorem test_decode_sml_d : decode .lzvn [0x4D#8, 0xFF#8] = .instr (.smlD 1 4 0x5FF) := by decide +kernel
theorem test_decode_med_d : decode .lzvn [0xBF#8, 0xFF#8, 0xFF#8] = .instr (.medD 3 34 16383) := by decide +kernel
theorem test_decode_lrg_d : decode .lzvn [0x07#8, 0x34#8, 0x12#8] = .instr (.lrgD 0 3 0x1234) := by decide +kernel
theorem test_decode_pre_d : decode .lzvn [0xCE#8] = .instr (.preD 3 4) := by decide +kernel
theorem test_decode_sml_m : decode .lzvn [0xF1#8] = .instr (.smlM 1) := by decide +kernel
theorem test_decode_lrg_m : decode .lzvn [0xF0#8, 0xFF#8] = .instr (.lrgM 271) := by decide +kernel
theorem test_decode_sml_l : decode .lzvn [0xEF#8] = .instr (.smlL 15) := by decide +kernel
theorem test_decode_lrg_l : decode .lzvn [0xE0#8, 0x01#8] = .instr (.lrgL 17) := by decide +kernel
theorem test_decode_nop : decode .lzvn [0x0E#8] = .instr (.nop 0x0E#8) := by decide +kernel
theorem test_decode_eos : decode .lzvn [0x06#8] = .instr .eos := by decide +kernel
theorem test_decode_udef : decode .lzvn [0xDF#8] = .instr (.udef 0xDF#8) := by decide +kernel
theorem test_decode_short_opcode : decode .lzvn [0x07#8, 0x34#8] = .reject .opcodeShort := by decide +kernel
/-- The values and codes of 42_header.md R241, with ones in the bits above each code. -/
theorem test_decode_freq_codes :
    [4 * 63 + 0, 4 * 63 + 2, 8 * 31 + 1, 8 * 31 + 5, 32 * 7 + 3, 32 * 7 + 11, 32 * 7 + 19, 32 * 7 + 27, 256 * 3 + 7,
      256 * 3 + 247, 16384 * 3 + 15, 16384 * 3 + 16383].map decodeFreq =
      [.f2 0, .f2 1, .f3 2, .f3 3, .f5 4, .f5 5, .f5 6, .f5 7, .f8 8, .f8 23, .f14 24, .f14 1047] := by decide +kernel
theorem test_decode_fse_symbols :
    [decode .lit [], decode .lVal [], decode .mVal [], decode .dVal []] =
      [.instr .litSym, .instr .lVal, .instr .mVal, .instr .dVal] := by decide +kernel

/-- The LZVN rows of spec/opcode_table.json: the (match, mask) pairs of a class. -/
def rowsOf : OpClass → List (Nat × Nat)
  | .smlD => [(0x00, 0xC4), (0x04, 0xC6), (0x40, 0xE4), (0x44, 0xE6), (0x60, 0xF4), (0x64, 0xF6), (0x80, 0xE4),
      (0x84, 0xE6), (0xC0, 0xF4), (0xC4, 0xF6)]
  | .lrgD => [(0x07, 0xC7), (0x47, 0xE7), (0x67, 0xF7), (0x87, 0xE7), (0xC7, 0xF7)]
  | .preD => [(0x46, 0xE7), (0x66, 0xF7), (0x86, 0xE7), (0xC6, 0xF7)]
  | .medD => [(0xA0, 0xE0)]
  | .eos => [(0x06, 0xFF)]
  | .nop => [(0x0E, 0xFF), (0x16, 0xFF)]
  | .udef => [(0x1E, 0xFF), (0x26, 0xFF), (0x2E, 0xFF), (0x36, 0xFF), (0x3E, 0xFF), (0x70, 0xF0), (0xD0, 0xF0)]
  | .lrgL => [(0xE0, 0xFF)]
  | .smlL => [(0xE1, 0xFF), (0xE2, 0xFE), (0xE4, 0xFC), (0xE8, 0xF8)]
  | .lrgM => [(0xF0, 0xFF)]
  | .smlM => [(0xF1, 0xFF), (0xF2, 0xFE), (0xF4, 0xFC), (0xF8, 0xF8)]

/-- Whether a row of the class covers the byte. -/
def covers (c : OpClass) (o : Nat) : Bool := (rowsOf c).any fun r => o &&& r.2 == r.1

/-- A byte is covered by a class's rows exactly when it has that class (R127). -/
theorem test_opcode_rows :
    (List.range 256).all (fun o =>
      [OpClass.smlD, .lrgD, .preD, .medD, .smlL, .lrgL, .smlM, .lrgM, .nop, .eos, .udef].all fun c =>
        covers c o == decide (opClass o = c)) = true := by
  decide +kernel

/-- The counts per class of R110. -/
theorem test_class_counts :
    [OpClass.smlD, .lrgD, .preD, .medD, .smlL, .lrgL, .smlM, .lrgM, .nop, .eos, .udef].map
      (fun c => ((List.range 256).filter (fun o => decide (opClass o = c))).length) =
      [120, 20, 12, 32, 15, 1, 15, 1, 2, 1, 37] := by decide +kernel

/-- The table's words through the host's numbering. -/
theorem test_decode_table_words :
    [decodeTableWord 32 0x24787662, decodeTableWord 32 0x2D787662, decodeTableWord 32 0x6E787662,
      decodeTableWord 8 0xF5, decodeTableWord 16 0x7, decodeTableWord 2 0x2] =
      [some .bvxEos, some (.bvxRaw 0), some (.bvxLzvn 0 0), some (.smlM 5), some (.f8 8), some (.f2 1)] := by
  decide +kernel

/-- `withFetchWord` makes the very next step run the instruction. -/
theorem test_fetch_word_eos :
    seen (step (State.reset.withFetchWord 32 0x24787662)) (fun t => (t.status, t.srcPos)) = some (.ok, 4) := by
  decide +kernel
theorem test_fetch_word_v1 :
    seen (step (State.reset.withFetchWord 32 0x31787662)) (fun t => (t.status, t.phase)) = some (.running, .setup) := by
  decide +kernel

/-! ## One step of each instruction -/

/-- X3 of 95_test_vectors.md. -/
theorem test_step_bvx_eos :
    seen (step (mk [0x62#8, 0x76#8, 0x78#8, 0x24#8] 8)) (fun t => (t.status, t.srcPos, t.dstPos, t.eosSeen)) =
      some (.ok, 4, 0, true) := by decide +kernel
/-- X4: the header of the "Hello" block. -/
theorem test_step_bvx_raw :
    seen (step (mk [0x62#8, 0x76#8, 0x78#8, 0x2D#8, 0x05#8, 0#8, 0#8, 0#8, 0x48#8] 16))
      (fun t => (t.status, t.srcPos, t.rawRem, t.blk)) = some (.running, 8, 5, .raw) := by decide +kernel
/-- X5 and X6: an unknown magic, and a RAW magic without its count. -/
theorem test_step_bad_magic :
    seen (step (mk [0xFF#8, 0xFF#8, 0xFF#8, 0xFF#8] 8)) (fun t => (t.status, t.cause, t.srcPos)) =
      some (.malformed, some .badMagic, 0) := by decide +kernel
theorem test_step_short_header :
    seen (step (mk [0x62#8, 0x76#8, 0x78#8, 0x2D#8] 8)) (fun t => (t.status, t.cause, t.srcPos)) =
      some (.srcEmpty, none, 0) := by decide +kernel
/-- R390: "Hello" into 3 bytes copies `Hel` and leaves 2 bytes. -/
theorem test_step_raw_copy :
    seen (step { mk [0x48#8, 0x65#8, 0x6C#8, 0x6C#8, 0x6F#8] 3 with blk := .raw, rawRem := 5 })
      (fun t => (t.srcPos, t.dstPos, t.rawRem, out 4 t)) =
      some (3, 3, 2, [some 0x48#8, some 0x65#8, some 0x6C#8, none]) := by decide +kernel
theorem test_step_bvxn :
    seen (step (mk [0x62#8, 0x76#8, 0x78#8, 0x6E#8, 9#8, 0#8, 0#8, 0#8, 8#8, 0#8, 0#8, 0#8] 8))
      (fun t => (t.srcPos, t.vnRawRem, t.vnPayRem, t.blk)) = some (12, 9, 8, .lzvn) := by decide +kernel
theorem test_step_bvx1 :
    seen (step (mk v1Bytes 8)) (fun t => (t.phase, t.hdr.nLiterals, t.hdr.litFreq.getLast?, t.srcPos)) =
      some (.setup, 3, some 15, 0) := by decide +kernel
/-- A V2 header of 31 bytes is Malformed, one of 32 bytes has 360 zero counts (R225, R239). -/
theorem test_step_bvx2 :
    [31, 32].map (fun n => seen (exec (.bvx2 { zeroV2 with headerSize := n }) (mk (List.replicate 40 0#8) 8))
      (fun t => (t.status, t.cause, t.phase, t.hdr.litFreq.length))) =
      [some (.malformed, some .hdrV2Freq, .ready, 0), some (.running, none, .setup, 256)] := by decide +kernel

/-- R330: `30 03` with `dst_pos = 3` appends 9 bytes copied at distance 3. -/
theorem test_step_sml_d :
    seen (step (mkVn [0x30#8, 0x03#8, 0x06#8] [0x61#8, 0x62#8, 0x63#8] 16 10 9 0))
      (fun t => ([t.srcPos, t.dstPos, t.vnD, t.vnPayRem, t.vnRawRem], out 13 t)) =
      some ([2, 12, 3, 8, 0],
        [some 0x61#8, some 0x62#8, some 0x63#8, some 0x61#8, some 0x62#8, some 0x63#8, some 0x61#8, some 0x62#8,
          some 0x63#8, some 0x61#8, some 0x62#8, some 0x63#8, none]) := by decide +kernel
/-- R331: `A0 0D 00` gives M = 4 and D = 3. -/
theorem test_step_med_d :
    seen (step (mkVn [0xA0#8, 0x0D#8, 0x00#8, 0x06#8] [1#8, 2#8, 3#8, 4#8] 16 10 9 0))
      (fun t => (t.srcPos, t.dstPos, t.vnD, out 8 t)) =
      some (3, 8, 3, [some 1#8, some 2#8, some 3#8, some 4#8, some 2#8, some 3#8, some 4#8, some 2#8]) := by
  decide +kernel
/-- R332: a 16-bit distance above the bytes produced raises LZVN_DISTANCE after its literal is written. -/
theorem test_step_lrg_d :
    seen (step (mkVn [0x47#8, 0x00#8, 0x01#8, 0x7A#8, 0x06#8] [1#8] 16 10 9 0))
      (fun t => (t.cause, [t.srcPos, t.dstPos, t.vnD], out 2 t)) =
      some (some .lzvnDistance, [4, 2, 256], [some 1#8, some 0x7A#8]) := by decide +kernel
/-- R333: `46 78` with `vn_D = 3` appends `x` and then 3 bytes at distance 3. -/
theorem test_step_pre_d :
    seen (step (mkVn [0x46#8, 0x78#8, 0x06#8] [1#8, 2#8, 3#8] 16 10 9 3))
      (fun t => (t.srcPos, t.dstPos, t.vnD, out 7 t)) =
      some (2, 7, 3, [some 1#8, some 2#8, some 3#8, some 0x78#8, some 2#8, some 3#8, some 0x78#8]) := by decide +kernel
/-- R334: `F5` appends 5 bytes at the current distance; without one it is consumed and raises. -/
theorem test_step_sml_m :
    seen (step (mkVn [0xF5#8, 0x06#8] [1#8, 2#8, 3#8] 16 10 9 3)) (fun t => (t.srcPos, t.dstPos, out 8 t)) =
      some (1, 8, [some 1#8, some 2#8, some 3#8, some 1#8, some 2#8, some 3#8, some 1#8, some 2#8]) := by decide +kernel
theorem test_step_sml_m_no_distance :
    seen (step (mkVn [0xF5#8, 0x06#8] [1#8] 16 10 9 0)) (fun t => (t.status, t.cause, t.srcPos, t.vnPayRem)) =
      some (.malformed, some .lzvnDistance, 1, 9) := by decide +kernel
/-- R335: `F0 04` with `vn_D = 1` appends 20 copies; with room for 5 it keeps 15 (R343). -/
theorem test_step_lrg_m :
    seen (step (mkVn [0xF0#8, 0x04#8, 0x06#8] [7#8] 40 10 20 1)) (fun t => (t.srcPos, t.dstPos, out 21 t)) =
      some (2, 21, List.replicate 21 (some 7#8)) := by decide +kernel
theorem test_step_lrg_m_full :
    seen (step (mkVn [0xF0#8, 0x04#8, 0x06#8] [7#8] 6 10 20 1))
      (fun t => (t.status, t.srcPos, t.dstPos, t.vnL, t.vnM, t.vnRawRem)) = some (.dstFull, 2, 6, 0, 15, 15) := by
  decide +kernel
/-- R336: `E3 61 62 63` appends `abc`; with room for 2 it keeps 1 (R342). -/
theorem test_step_sml_l :
    seen (step (mkVn [0xE3#8, 0x61#8, 0x62#8, 0x63#8, 0x06#8] [] 16 12 3 0)) (fun t => (t.srcPos, t.dstPos, out 3 t)) =
      some (4, 3, [some 0x61#8, some 0x62#8, some 0x63#8]) := by decide +kernel
theorem test_step_sml_l_full :
    seen (step (mkVn [0xE3#8, 0x61#8, 0x62#8, 0x63#8, 0x06#8] [] 2 12 3 0))
      (fun t => (t.status, t.srcPos, t.dstPos, t.vnL, t.vnM)) = some (.dstFull, 3, 2, 1, 0) := by decide +kernel
/-- R337: `E0 00` and 16 bytes. -/
theorem test_step_lrg_l :
    seen (step (mkVn ([0xE0#8, 0x00#8] ++ List.replicate 17 9#8) [] 16 26 16 0))
      (fun t => (t.srcPos, t.dstPos, out 16 t)) = some (18, 16, List.replicate 16 (some 9#8)) := by decide +kernel
/-- R338: `nop` needs a byte after itself: at the end of SRC it stops, with the declared payload longer than SRC. -/
theorem test_step_nop :
    [2, 1].map (fun n => seen (step (mkVn (List.replicate n 0x0E#8) [] 16 9 0 0)) (fun t => (t.status, t.srcPos))) =
      [some (.running, 1), some (.srcEmpty, 0)] := by decide +kernel
/-- R339, R360: `eos` ends the block when both counts reach zero, and is Malformed otherwise. -/
theorem test_step_eos :
    [0, 1].map (fun raw => seen (step (mkVn (0x06#8 :: List.replicate 7 0xFF#8) [] 16 8 raw 0))
      (fun t => (t.status, t.cause, t.blk, t.srcPos))) =
      [some (.running, none, .none, 8), some (.malformed, some .lzvnAccounting, .lzvn, 8)] := by decide +kernel
/-- R340: an undefined opcode consumes nothing, also as the last byte. -/
theorem test_step_udef :
    seen (step (mkVn [0x70#8] [] 16 9 0 0)) (fun t => (t.status, t.cause, t.srcPos)) =
      some (.malformed, some .lzvnUdef, 0) := by decide +kernel

/-- A machine in a frequency stream of `bytes`, with `n` counts decoded. -/
def mkFreq (bytes : List Byte) (n : Nat) : State :=
  { mk bytes 8 with phase := .freqs, freq := ⟨0, 0, 0, bytes.length⟩, freqs := List.replicate n 0 }

/-- The codes of R241 in the low bits of the stream: the count, and the bits left after a refill of one or two bytes. -/
theorem test_step_freq_codes :
    [[0x02#8], [0x05#8], [0x13#8], [0xF7#8], [0xFF#8, 0x3F#8]].map
      (fun bs => seen (step (mkFreq bs 0)) (fun t => (t.freqs, t.freq.nb, t.freq.q))) =
      [some ([1], 6, 1), some ([3], 5, 1), some ([6], 3, 1), some ([23], 0, 1), some ([1047], 2, 2)] := by
  decide +kernel
/-- A 14-bit code with 8 bits left is HDR_V2_FREQ; the 360th count ends the stream when fewer than 8 bits are left. -/
theorem test_step_freq_ends :
    [(0xFF#8, 0), (0x02#8, 359)].map
      (fun x => seen (step (mkFreq [x.1] x.2)) (fun t => (t.status, t.cause, t.phase, t.hdr.litFreq.getLast?))) =
      [some (.malformed, some .hdrV2Freq, .freqs, none), some (.running, none, .setup, some 1)] := by decide +kernel

/-- R188: state 512 of the table `97:512, 98:256, 99:256` holds (98, 2 bits, delta 0); with the bits `11` the step gives
(98, 3). -/
def mkLit : State :=
  { mk [] 8 with
    phase := .lits, hdr := { Header.zero with nLiterals := 4 }, litIdx := 1, ls := ⟨0, 512, 0, 0⟩,
    tLit := List.replicate 512 .unassigned ++ [⟨true, 98, 2, 0⟩], litrd := ⟨3, 2, 0, 0⟩ }
theorem test_step_lit_sym :
    seen (step mkLit) (fun t => (memRead .lit t.lit 1, t.ls.l1, t.litIdx, t.litrd.nbits)) =
      some (some 98#8, 3, 2, 0) := by decide +kernel
theorem test_step_lit_sym_unassigned : faultOf (step { mkLit with ls := ⟨0, 5, 0, 0⟩ }) = some .unassignedSlot := by
  decide +kernel

/-- R189: state 200 of the D table of `0:100, 2:100, 8:56` holds (5, 2, 12, 192); the bits `00011` give 15 and 192. -/
def mkLmd (e : ValEntry) : State :=
  { mk (List.replicate 16 0#8) 8 with
    blk := .v1, nRem := 7, lmd := ⟨3 * 2 ^ 51, 56, 8, 0⟩, tL := [e], tM := [e], tD := [e], D := some 4, lv := 2, mv := 6 }
theorem test_step_d_val :
    seen (step { mkLmd ⟨true, 5, 2, 12, 192⟩ with phase := .dVal })
      (fun t => (t.D, [t.dSt, t.L, t.M, t.nRem, t.lmd.nbits], t.phase)) =
      some (some 15, [192, 2, 6, 6, 51], .copy) := by decide +kernel
/-- R278: a zero distance value keeps the previous distance. -/
theorem test_step_d_val_zero :
    seen (step { mkLmd ⟨true, 0, 0, 0, 9⟩ with phase := .dVal }) (fun t => (t.D, t.dSt, t.nRem)) =
      some (some 4, 9, 6) := by decide +kernel
theorem test_step_l_val :
    seen (step (mkLmd ⟨true, 5, 2, 12, 1⟩)) (fun t => (t.lv, t.lSt, t.L, t.phase)) = some (15, 1, 0, .mVal) := by
  decide +kernel
/-- R277: a literal length past the buffer of 40000 entries is LIT_OVERRUN. -/
theorem test_step_l_val_overrun :
    [39985, 39986].map (fun p => seen (step { mkLmd ⟨true, 5, 2, 12, 1⟩ with litPos := p }) (fun t => t.cause)) =
      [some none, some (some .litOverrun)] := by decide +kernel
theorem test_step_m_val :
    seen (step { mkLmd ⟨true, 5, 2, 12, 1⟩ with phase := .mVal }) (fun t => (t.mv, t.mSt, t.M, t.phase)) =
      some (15, 1, 0, .dVal) := by decide +kernel

/-! ## The sequencer's actions -/

/-- R282: with `ab` in DST, distance 2 and M = 4 the copy appends `abab`; with room for 3 bytes one stays pending. -/
theorem test_step_execute :
    [40, 6, 5].map (fun cap => seen (step (mkTriplet [] [0x61#8, 0x62#8] cap 0 4 (some 2)))
      (fun t => (t.status, [t.dstPos, t.M], out 6 t))) =
      [some (.running, [6, 0], [some 0x61#8, some 0x62#8, some 0x61#8, some 0x62#8, some 0x61#8, some 0x62#8]),
        some (.running, [6, 0], [some 0x61#8, some 0x62#8, some 0x61#8, some 0x62#8, some 0x61#8, some 0x62#8]),
        some (.dstFull, [5, 1], [some 0x61#8, some 0x62#8, some 0x61#8, some 0x62#8, some 0x61#8, none])] := by
  decide +kernel
/-- R279: the bound of the distance is `dst_pos + L`, also when M = 0; R283: an unwritten literal faults. -/
theorem test_step_execute_distance :
    [some 3, some 4, none].map (fun d => seen (step (mkTriplet [5#8] [0x61#8, 0x62#8] 9 1 0 d)) (fun t => (t.cause, t.dstPos))) =
      [some (none, 3), some (some .badDistance, 2), some (some .badDistance, 2)] := by decide +kernel
theorem test_step_execute_stale : faultOf (step (mkTriplet [5#8] [1#8] 9 2 0 (some 1))) = some .staleLiteral := by
  decide +kernel
/-- R276: the end of a block; R275: with an empty L/M/D payload at the end of SRC the source check stops the run. -/
theorem test_step_block_end :
    [5, 0].map (fun n => seen (step { mk (List.replicate n 0#8) 8 with blk := .v2, lmdPay := n })
      (fun t => (t.status, t.blk, t.srcPos))) = [some (.running, .none, 5), some (.srcEmpty, .v2, 0)] := by decide +kernel

/-! ## Worked tables and readers -/

/-- 41_fse.md R191: the table of `0:3, 1:61` with 64 states. -/
theorem test_table_3_61 :
    (buildSym 64 [3, 61]).1.take 8 =
      [⟨true, 0, 5, 32⟩, ⟨true, 0, 4, 0⟩, ⟨true, 0, 4, 16⟩, ⟨true, 1, 1, 58⟩, ⟨true, 1, 1, 60⟩, ⟨true, 1, 1, 62⟩,
        ⟨true, 1, 0, 0⟩, ⟨true, 1, 0, 1⟩] := by decide +kernel
/-- R191: the D value table of `0:100, 2:100, 8:56` with 256 states. -/
theorem test_table_d :
    [0, 99, 100, 200, 207, 208, 255].map
      (fun p => (buildVal 256 dExtraTable dBaseTable [100, 0, 100, 0, 0, 0, 0, 0, 56]).1[p]?) =
      [some ⟨true, 2, 0, 0, 144⟩, some ⟨true, 1, 0, 0, 142⟩, some ⟨true, 2, 0, 2, 144⟩, some ⟨true, 5, 2, 12, 192⟩,
        some ⟨true, 5, 2, 12, 248⟩, some ⟨true, 4, 2, 12, 0⟩, some ⟨true, 4, 2, 12, 188⟩] := by decide +kernel
/-- R184, R187: slots above the sum are unassigned, and a sum above the state count overflows. -/
theorem test_table_edges :
    ((buildSym 8 [1, 2]).1.drop 3 = List.replicate 5 .unassigned) ∧ (buildSym 8 [1, 2]).2 = false ∧
      (buildSym 8 [4, 5]).2 = true := by decide +kernel
/-- R186: the base values follow from the extra bits. -/
theorem test_d_base :
    (List.range 63).all (fun i => dBaseTable.getD (i + 1) 0 == dBaseTable.getD i 0 + 2 ^ dExtraTable.getD i 0) = true ∧
      dBaseTable.length = 64 ∧ dExtraTable = (List.range 64).map (fun i => i / 4) := by decide +kernel

/-- SRC `01 .. 10` of 40_bitreader.md R152. -/
def sixteen : State := mk [1#8, 2#8, 3#8, 4#8, 5#8, 6#8, 7#8, 8#8, 9#8, 10#8, 11#8, 12#8, 13#8, 14#8, 15#8, 16#8] 0
/-- R152, R155: the init, and the flush after pulls of 4 and 12 bits. -/
theorem test_reader_init :
    readerOf .lmd (readerInit .lmd 0 16 0 sixteen) = some (0x100F0E0D0C0B0A, 56, 9) := by decide +kernel
theorem test_reader_flush :
    readerOf .lmd
      ((readerInit .lmd 0 16 0 sixteen).bind fun _ a => (pull .lmd 4 a).bind fun x b => (pull .lmd 12 b).bind fun y c =>
        if x = 1 ∧ y = 0x00F then flush .lmd c else .fault .pullUnderflow) =
      some (0x0E0D0C0B0A0908, 56, 7) := by decide +kernel
/-- R156: `init(-3, 8, 0)` over seven bytes FF and 1F, then `pull(5)` gives 1F. -/
theorem test_reader_pull :
    (match (readerInit .litrd (-3) 8 0 (mk (List.replicate 7 0xFF#8 ++ [0x1F#8]) 0)).bind fun _ a => pull .litrd 5 a with
      | .ok b _ => some b
      | _ => none) = some 0x1F := by decide +kernel

/-- 42_header.md R248. -/
theorem test_header_check :
    [ { Header.zero with dFreq := [257] }, { Header.zero with lState := 64 }, { Header.zero with nLiterals := 40001 },
      { Header.zero with nLiterals := 40000, nMatches := 10000 } ].map
      (fun h => hdrCheck { State.reset with magic := magicV1, hdr := h }) =
      [0x1000#14, 0x0080#14, 0x0002#14, 0x0000#14] := by decide +kernel

/-! ## The listing -/

/-- X4 of 95_test_vectors.md as a listing; a literal count that differs and a field out of range are rejected. -/
theorem test_listing :
    assemble [.raw [0x48#8, 0x65#8, 0x6C#8, 0x6C#8, 0x6F#8], .eos] =
      some [0x62#8, 0x76#8, 0x78#8, 0x2D#8, 5#8, 0#8, 0#8, 0#8, 0x48#8, 0x65#8, 0x6C#8, 0x6C#8, 0x6F#8, 0x62#8, 0x76#8,
        0x78#8, 0x24#8] ∧
    assemble [.op (.smlL 3) [0x61#8, 0x62#8, 0x63#8], .op (.nop 0x16#8) [], .op .eos []] =
      some [0xE3#8, 0x61#8, 0x62#8, 0x63#8, 0x16#8, 0x06#8, 0#8, 0#8, 0#8, 0#8, 0#8, 0#8, 0#8] ∧
    assemble [.op (.smlL 3) [0x61#8]] = none ∧ assemble [.op (.smlM 16) []] = none := by decide +kernel

/-! ## The host -/

/-- X2: the wrapper does not start the core for an empty buffer. -/
theorem test_wrapper_empty :
    decompress .default [0x62#8, 0x76#8, 0x78#8, 0x24#8] 0 = some 0 ∧ decompress .default [] 8 = some 0 := by decide +kernel
/-- R470: RESUME after OK is refused and changes nothing. -/
theorem test_resume_refused :
    seen (step { State.reset with status := .ok, srcPos := 4, cmd := some (.resume ⟨[], 8, true, true⟩) })
      (fun t => (t.status, t.srcPos, t.dstCap, t.cmd)) = some (.ok, 4, 0, none) := by decide +kernel
/-- R397: RESUME with a longer SRC. -/
theorem test_resume :
    seen (step { mk [1#8] 3 with status := .srcEmpty, cmd := some (.resume ⟨[1#8, 2#8], 3, true, true⟩) })
      (fun t => (t.status, t.srcLen, srcByte t 1, t.cmd)) = some (.running, 2, some 2#8, none) := by decide +kernel

/-! ## Witnesses: for every statement with hypotheses, states and operands that meet them, clause by clause -/

section Witnesses
open Sys2Proof

theorem witness_LzvnDecodesItsEncoding :
    [ Instr.smlD 0 3 0, .smlD 0 10 1535, .smlD 3 4 0, .medD 3 34 16383, .lrgD 0 3 65535, .preD 1 3, .preD 3 4, .smlM 1,
      .smlM 15, .lrgM 16, .lrgM 271, .smlL 1, .smlL 15, .lrgL 16, .lrgL 271, .nop 0x0E#8, .nop 0x16#8, .eos,
      .udef 0x1E#8, .udef 0xDF#8 ].all (fun i => decide (i.ctx = .lzvn) && i.wf) = true := by decide +kernel

theorem witness_BlockHeaderDecodesItsEncoding :
    [ Instr.bvxEos, .bvxRaw (2 ^ 32 - 1), .bvxLzvn 0 (2 ^ 32 - 1), .bvx1 zeroV1,
      .bvx1 { zeroV1 with literalBits := -2 ^ 31, lmdBits := 2 ^ 31 - 1, freqs := List.replicate 360 65535 },
      .bvx2 { zeroV2 with literalBits := -7, litState := ⟨1023, 0, 0, 1023⟩, headerSize := 2 ^ 32 - 1 } ].all
        (fun i => decide (i.ctx = .block) && i.wf) = true := by decide +kernel

theorem witness_FrequencyCodeDecodesItsEncoding :
    ∀ x ∈ [(Instr.f2 0, 2, 0), (.f2 1, 2, 1), (.f3 2, 3, 2), (.f3 3, 3, 3), (.f5 4, 5, 4), (.f5 7, 5, 7), (.f8 8, 8, 8),
      (.f8 23, 8, 23), (.f14 24, 14, 24), (.f14 1047, 14, 1047)], IsFreqCode x.1 x.2.1 x.2.2 ∧ x.1.wf = true := by
  unfold IsFreqCode
  decide +kernel

/-- A block start over `bvx$`, an LZVN opcode `nop`, and a frequency stream. -/
def eosState : State := mk [0x62#8, 0x76#8, 0x78#8, 0x24#8] 8
def nopState : State := mkVn [0x0E#8, 0x06#8] [] 8 9 0 0

theorem witness_StepRunsTheDecodedInstruction_block :
    eosState.status = .running ∧ eosState.phase = .ready ∧ eosState.blk = .none ∧
      blockBytes eosState = some [0x62#8, 0x76#8, 0x78#8, 0x24#8] ∧
      decode .block [0x62#8, 0x76#8, 0x78#8, 0x24#8] = .instr .bvxEos := by decide +kernel
theorem witness_StepRunsTheDecodedInstruction_lzvn :
    nopState.status = .running ∧ nopState.phase = .ready ∧ nopState.blk = .lzvn ∧ nopState.vnL = 0 ∧ nopState.vnM = 0 ∧
      opcodeBytes nopState = some [0x0E#8, 0x06#8] ∧ decode .lzvn [0x0E#8, 0x06#8] = .instr (.nop 0x0E#8) := by
  decide +kernel
theorem witness_StepRunsTheDecodedInstruction_freq :
    (mkFreq [2#8] 0).status = .running ∧ (mkFreq [2#8] 0).phase = .freqs ∧
      freqWindow (mkFreq [2#8] 0) = some ⟨2, 8, 1, 1⟩ := by decide +kernel
theorem witness_StepRunsTheDecodedInstruction_lits :
    mkLit.status = .running ∧ mkLit.phase = .lits ∧ mkLit.litIdx < litGoal mkLit := by decide +kernel
theorem witness_StepRunsTheDecodedInstruction_lmd :
    (mkLmd .unassigned).status = .running ∧ (mkLmd .unassigned).phase = .ready ∧ (mkLmd .unassigned).blk = .v1 ∧
      sourceShort (mkLmd .unassigned) = false ∧ (mkLmd .unassigned).L = 0 ∧ (mkLmd .unassigned).M = 0 ∧
      (mkLmd .unassigned).nRem ≠ 0 ∧ { mkLmd .unassigned with phase := .mVal }.phase = .mVal ∧
      { mkLmd .unassigned with phase := .dVal }.phase = .dVal := by decide +kernel

theorem witness_EncodedInstructionInSourceRuns :
    (Instr.bvxEos.wf = true ∧ eosState.status = .running ∧ eosState.phase = .ready ∧
      srcBytes eosState (encode .bvxEos).length eosState.srcPos = some (encode .bvxEos) ∧ Instr.bvxEos.ctx = .block ∧
      eosState.blk = .none ∧ eosState.srcPos + (encode .bvxEos).length ≤ eosState.srcLen) ∧
    ((Instr.nop 0x0E#8).wf = true ∧ nopState.status = .running ∧ nopState.phase = .ready ∧
      srcBytes nopState (encode (.nop 0x0E#8)).length nopState.srcPos = some (encode (.nop 0x0E#8)) ∧
      (Instr.nop 0x0E#8).ctx = .lzvn ∧ nopState.blk = .lzvn ∧ nopState.vnL = 0 ∧ nopState.vnM = 0 ∧
      (encode (.nop 0x0E#8)).length ≤ vnSA nopState) := by decide +kernel

/-- The magic `62 76 78 b` and zeros, `n` bytes in all. -/
def magicState (b : Byte) (n : Nat) : State := mk ([0x62#8, 0x76#8, 0x78#8, b] ++ List.replicate (n - 4) 0#8) 8

theorem witness_BlockStartStops_short :
    (mk [1#8, 2#8, 3#8] 8).status = .running ∧ (mk [1#8, 2#8, 3#8] 8).phase = .ready ∧
      (mk [1#8, 2#8, 3#8] 8).blk = .none ∧ srcAvail (mk [1#8, 2#8, 3#8] 8) < 4 := by decide +kernel
theorem witness_BlockStartStops_magic :
    4 ≤ srcAvail (magicState 0x25#8 4) ∧ srcRead (magicState 0x25#8 4) 0 4 = some 0x25787662 ∧
      0x25787662 ≠ magicEos ∧ 0x25787662 ≠ magicRaw ∧ 0x25787662 ≠ magicLzvn ∧ 0x25787662 ≠ magicV1 ∧
      0x25787662 ≠ magicV2 := by decide +kernel
theorem witness_BlockStartStops_header :
    (srcRead (magicState 0x2D#8 7) 0 4 = some magicRaw ∧ srcAvail (magicState 0x2D#8 7) = 7) ∧
    (srcRead (magicState 0x6E#8 11) 0 4 = some magicLzvn ∧ srcAvail (magicState 0x6E#8 11) = 11) ∧
    (srcRead (magicState 0x31#8 769) 0 4 = some magicV1 ∧ srcAvail (magicState 0x31#8 769) = 769) ∧
    (srcRead (magicState 0x32#8 31) 0 4 = some magicV2 ∧ srcAvail (magicState 0x32#8 31) = 31) := by decide +kernel

theorem witness_headers_available :
    [4, 8, 12, 770, 32].map (fun n => srcAvail (magicState 0#8 n)) = [4, 8, 12, 770, 32] ∧
    [7, 11, 769, 31].map (fun n => srcAvail (magicState 0#8 n)) = [7, 11, 769, 31] := by decide +kernel
theorem witness_V1HeaderStartsASetup :
    (magicState 0x31#8 770).status = .running ∧ (magicState 0x31#8 770).phase = .ready ∧
      (magicState 0x31#8 770).blk = .none ∧ 770 ≤ srcAvail (magicState 0x31#8 770) ∧
      srcRead (magicState 0x31#8 770) 0 4 = some magicV1 := by decide +kernel
theorem witness_V2HeaderStartsASetup_exec :
    (32 ≤ srcAvail (magicState 0#8 32) ∧ { zeroV2 with headerSize := 31 }.headerSize < 32) ∧
    (32 ≤ { zeroV2 with headerSize := 33 }.headerSize ∧
      srcAvail (magicState 0#8 32) < { zeroV2 with headerSize := 33 }.headerSize) ∧
    zeroV2.headerSize = 32 ∧
    (32 < { zeroV2 with headerSize := 33 }.headerSize ∧
      { zeroV2 with headerSize := 33 }.headerSize ≤ srcAvail (magicState 0#8 33)) := by decide +kernel
/-- A V2 block in SRC with header sizes 32 and 33. -/
def v2State (size : Nat) : State := mk (encode (.bvx2 { zeroV2 with headerSize := size }) ++ [0#8]) 8
theorem witness_V2HeaderStartsASetup_step :
    [32, 33].all (fun n =>
      decide ((v2State n).status = .running ∧ (v2State n).phase = .ready ∧ (v2State n).blk = .none ∧
        32 ≤ srcAvail (v2State n) ∧ srcRead (v2State n) 0 4 = some magicV2 ∧
        srcRead (v2State n) 8 8 = some (7 * 2 ^ 60) ∧ srcRead (v2State n) 16 8 = some (7 * 2 ^ 60) ∧
        srcRead (v2State n) 24 8 = some n ∧ field n 0 32 = n ∧ 32 ≤ n ∧ n ≤ srcAvail (v2State n))) = true := by
  decide +kernel

/-- A RAW block with `rem` bytes to go, `n` bytes of SRC and room for `cap`. -/
def rawState (rem n cap : Nat) : State := { mk (List.replicate n 5#8) cap with blk := .raw, rawRem := rem }
theorem witness_RawBlockStep :
    ((rawState 0 0 0).status = .running ∧ (rawState 0 0 0).phase = .ready ∧ (rawState 0 0 0).blk = .raw ∧
      (rawState 0 0 0).rawRem = 0) ∧
    ((rawState 1 0 0).rawRem ≠ 0 ∧ srcAvail (rawState 1 0 0) = 0) ∧
    ((rawState 1 1 0).rawRem ≠ 0 ∧ srcAvail (rawState 1 1 0) ≠ 0 ∧ (rawState 1 1 0).dstCap - (rawState 1 1 0).dstPos = 0) ∧
    ((rawState 1 1 1).rawRem ≠ 0 ∧ srcAvail (rawState 1 1 1) ≠ 0 ∧
      (rawState 1 1 1).dstCap - (rawState 1 1 1).dstPos ≠ 0 ∧
      1 = min (rawState 1 1 1).rawRem (min (srcAvail (rawState 1 1 1)) ((rawState 1 1 1).dstCap - (rawState 1 1 1).dstPos))) := by
  decide +kernel

/-- An LZVN state whose windows hold exactly `sa` source and `da` destination bytes, with `filled` bytes of output. -/
def vnState (sa da filled d : Nat) : State :=
  mkVn (List.replicate sa 1#8) (List.replicate filled 2#8) (filled + da) sa (da + 1) d

/-- The smallest windows: one byte after the opcode and its literals, and exactly the room of the output; the largest distance. -/
theorem witness_LiteralAndMatchOpcodesComplete :
    ∀ x ∈ [(Instr.smlD 0 3 1, 2, 0, 3, 1), (.medD 1 34 2, 3, 1, 34, 2), (.lrgD 3 4 4, 3, 3, 4, 4),
      (.preD 1 3, 1, 1, 3, 2)],
      IsLiteralMatch (vnState (x.2.1 + x.2.2.1 + 1) (x.2.2.1 + x.2.2.2.1) 1 2) x.1 x.2.1 x.2.2.1 x.2.2.2.1 x.2.2.2.2 ∧
      DstFilled (vnState (x.2.1 + x.2.2.1 + 1) (x.2.2.1 + x.2.2.2.1) 1 2) ∧
      x.2.1 + x.2.2.1 < vnSA (vnState (x.2.1 + x.2.2.1 + 1) (x.2.2.1 + x.2.2.2.1) 1 2) ∧
      x.2.2.1 + x.2.2.2.1 ≤ vnDA (vnState (x.2.1 + x.2.2.1 + 1) (x.2.2.1 + x.2.2.2.1) 1 2) ∧ x.2.2.2.2 ≠ 0 ∧
      x.2.2.2.2 ≤ (vnState (x.2.1 + x.2.2.1 + 1) (x.2.2.1 + x.2.2.2.1) 1 2).dstPos + x.2.2.1 := by
  unfold IsLiteralMatch DstFilled
  decide +kernel
theorem witness_MatchOpcodesComplete :
    ∀ x ∈ [(Instr.smlM 15, 1, 15), (.lrgM 271, 2, 271)],
      IsMatchOnly x.1 x.2.1 x.2.2 ∧ DstFilled (vnState (x.2.1 + 1) x.2.2 1 1) ∧
      x.2.1 < vnSA (vnState (x.2.1 + 1) x.2.2 1 1) ∧ x.2.2 ≤ vnDA (vnState (x.2.1 + 1) x.2.2 1 1) ∧
      (vnState (x.2.1 + 1) x.2.2 1 1).vnD ≠ 0 ∧
      (vnState (x.2.1 + 1) x.2.2 1 1).vnD ≤ (vnState (x.2.1 + 1) x.2.2 1 1).dstPos := by
  unfold IsMatchOnly DstFilled
  decide +kernel
theorem witness_LiteralOpcodesComplete :
    ∀ x ∈ [(Instr.smlL 15, 1, 15), (.lrgL 271, 2, 271)],
      IsLiteralOnly x.1 x.2.1 x.2.2 ∧ x.2.1 + x.2.2 < vnSA (vnState (x.2.1 + x.2.2 + 1) x.2.2 0 0) ∧
      x.2.2 ≤ vnDA (vnState (x.2.1 + x.2.2 + 1) x.2.2 0 0) := by
  unfold IsLiteralOnly
  decide +kernel
theorem witness_NopConsumesOneByte : 1 < vnSA (vnState 2 0 0 0) := by decide +kernel
theorem witness_LzvnEndOfStream :
    (8 ≤ vnSA (mkVn (List.replicate 8 6#8) [] 0 8 0 0) ∧ (mkVn (List.replicate 8 6#8) [] 0 8 0 0).vnPayRem = 8 ∧
      (mkVn (List.replicate 8 6#8) [] 0 8 0 0).vnRawRem = 0) ∧
    (8 ≤ vnSA (mkVn (List.replicate 9 6#8) [] 0 9 0 0) ∧
      ¬ ((mkVn (List.replicate 9 6#8) [] 0 9 0 0).vnPayRem = 8 ∧
        (mkVn (List.replicate 9 6#8) [] 0 9 0 0).vnRawRem = 0)) := by decide +kernel
/-- A window one byte too short for each opcode, and both reasons for it. -/
theorem witness_ShortSourceWindowStops :
    (IsLiteralMatch (vnState 5 0 0 0) (.smlD 3 3 1) 2 3 3 1 ∧ vnSA (vnState 5 0 0 0) ≤ 2 + 3) ∧
    (IsLiteralMatch (vnState 3 0 0 0) (.medD 0 3 1) 3 0 3 1 ∧ vnSA (vnState 3 0 0 0) ≤ 3 + 0) ∧
    (IsLiteralMatch (vnState 3 0 0 0) (.lrgD 0 3 1) 3 0 3 1 ∧ vnSA (vnState 3 0 0 0) ≤ 3 + 0) ∧
    (IsLiteralMatch (vnState 2 0 0 0) (.preD 1 3) 1 1 3 0 ∧ vnSA (vnState 2 0 0 0) ≤ 1 + 1) ∧
    (IsMatchOnly (.smlM 1) 1 1 ∧ vnSA (vnState 1 0 0 0) ≤ 1) ∧ (IsMatchOnly (.lrgM 16) 2 16 ∧ vnSA (vnState 2 0 0 0) ≤ 2) ∧
    (IsLiteralOnly (.smlL 1) 1 1 ∧ vnSA (vnState 2 0 0 0) ≤ 1 + 1) ∧
    (IsLiteralOnly (.lrgL 16) 2 16 ∧ vnSA (vnState 18 0 0 0) ≤ 2 + 16) ∧ vnSA (vnState 1 0 0 0) ≤ 1 ∧
    vnSA (vnState 7 0 0 0) < 8 ∧ srcAvail (mkVn [] [] 0 1 0 0) < (mkVn [] [] 0 1 0 0).vnPayRem ∧
    (vnState 7 0 0 0).vnPayRem ≤ srcAvail (vnState 7 0 0 0) := by
  unfold IsLiteralMatch IsMatchOnly IsLiteralOnly
  decide +kernel
/-- A step whose window is empty, and one whose window ends inside each opcode with operand bytes, for both reasons. -/
theorem witness_ShortSourceWindowStops_step :
    [([], 1), ([], 0), ([0x00#8], 2), ([0x00#8], 1), ([0xA0#8, 0#8], 3), ([0xA0#8, 0#8], 2), ([0x07#8, 0#8], 3),
      ([0x07#8], 1), ([0xF0#8], 2), ([0xF0#8], 1), ([0xE0#8], 9), ([0xE0#8], 1)].all (fun x =>
      let s := mkVn x.1 [] 0 x.2 0 0
      decide (s.status = .running ∧ s.phase = .ready ∧ s.blk = .lzvn ∧ s.vnL = 0 ∧ s.vnM = 0) &&
      (decide (vnSA s = 0) ||
        (match srcByte s s.srcPos with
          | some opc => decide (vnSA s < (opClass opc.toNat).readLen)
          | none => false)) &&
      decide (seen (step s) (fun t => t.status) =
        some (if srcAvail s < s.vnPayRem then .srcEmpty else .malformed))) = true := by decide +kernel
theorem witness_LzvnDistanceCheckRaises :
    (IsLiteralMatch (vnState 4 1 1 0) (.smlD 1 3 0) 2 1 3 0 ∧ 2 + 1 < vnSA (vnState 4 1 1 0) ∧
      1 ≤ vnDA (vnState 4 1 1 0)) ∧
    (IsLiteralMatch (vnState 5 1 1 0) (.lrgD 1 3 3) 3 1 3 3 ∧ 3 + 1 < vnSA (vnState 5 1 1 0) ∧
      1 ≤ vnDA (vnState 5 1 1 0) ∧ (vnState 5 1 1 0).dstPos + 1 < 3) ∧
    (IsMatchOnly (.smlM 1) 1 1 ∧ 1 < vnSA (vnState 2 1 1 0) ∧ (vnState 2 1 1 0).vnD = 0) := by
  unfold IsLiteralMatch IsMatchOnly
  decide +kernel
/-- A window one byte short in the literals and in the match, with declared output left (`da + 1`) and without. -/
theorem witness_FullWindowKeepsTheRemainder :
    (IsLiteralMatch (vnState 6 2 1 0) (.smlD 3 3 1) 2 3 3 1 ∧ 2 + 3 < vnSA (vnState 6 2 1 0) ∧
      vnDA (vnState 6 2 1 0) < 3 ∧ vnDA (vnState 6 2 1 0) < (vnState 6 2 1 0).vnRawRem) ∧
    (IsLiteralOnly (.smlL 3) 1 3 ∧ 1 + 3 < vnSA (mkVn (List.replicate 5 1#8) [] 9 5 2 0) ∧
      vnDA (mkVn (List.replicate 5 1#8) [] 9 5 2 0) < 3 ∧
      (mkVn (List.replicate 5 1#8) [] 9 5 2 0).vnRawRem ≤ vnDA (mkVn (List.replicate 5 1#8) [] 9 5 2 0)) ∧
    (IsLiteralMatch (vnState 4 3 1 0) (.smlD 1 3 2) 2 1 3 2 ∧ DstFilled (vnState 4 3 1 0) ∧
      2 + 1 < vnSA (vnState 4 3 1 0) ∧ 1 ≤ vnDA (vnState 4 3 1 0) ∧ vnDA (vnState 4 3 1 0) < 1 + 3 ∧
      2 ≤ (vnState 4 3 1 0).dstPos + 1 ∧ vnDA (vnState 4 3 1 0) < (vnState 4 3 1 0).vnRawRem) ∧
    (IsMatchOnly (.smlM 3) 1 3 ∧ DstFilled (mkVn [1#8, 1#8] [1#8] 9 2 2 1) ∧ 1 + 0 < vnSA (mkVn [1#8, 1#8] [1#8] 9 2 2 1) ∧
      vnDA (mkVn [1#8, 1#8] [1#8] 9 2 2 1) < 0 + 3 ∧ (mkVn [1#8, 1#8] [1#8] 9 2 2 1).vnD = 1 ∧
      (mkVn [1#8, 1#8] [1#8] 9 2 2 1).vnRawRem ≤ vnDA (mkVn [1#8, 1#8] [1#8] 9 2 2 1)) := by
  unfold IsLiteralMatch IsMatchOnly IsLiteralOnly DstFilled
  decide +kernel
/-- A remainder of literals, of a match, and of both. -/
theorem witness_PendingRemainderCompletes :
    [(1, 0), (0, 1), (1, 1)].all (fun x =>
      let s := { vnState 2 2 1 1 with vnL := x.1, vnM := x.2 }
      decide (s.status = .running ∧ s.phase = .ready ∧ s.blk = .lzvn ∧ (s.vnL ≠ 0 ∨ s.vnM ≠ 0) ∧
        (∀ p < s.dstPos, memRead .dst s.dst p ≠ none) ∧ (s.vnL ≠ 0 → s.vnL < vnSA s) ∧ s.vnL + s.vnM ≤ vnDA s ∧
        (s.vnM ≠ 0 → s.vnD ≠ 0 ∧ s.vnD ≤ s.dstPos + s.vnL))) = true := by decide +kernel

theorem witness_ReaderWindow :
    (readerOf .lmd (readerInit .lmd 0 16 0 sixteen)).isSome = true ∧
    (readerOf .litrd (flush .litrd { sixteen with litrd := ⟨0, 0, 16, 0⟩ })).isSome = true ∧
    (readerOf .lmd (pull .lmd 63 { sixteen with lmd := ⟨2 ^ 63 - 1, 63, 0, 0⟩ })).isSome = true := by decide +kernel
theorem witness_ReaderInit :
    16 ≤ sixteen.srcLen ∧ (0 + 8 ≤ 8 ∧ srcRead sixteen (8 - 8) 8 = some 0x0807060504030201) ∧
    (0x0807060504030201 < 2 ^ (-4 + 64 : Int).toNat ∧ 2 ^ (-5 + 64 : Int).toNat ≤ 0x0807060504030201) ∧
    (0 + 7 ≤ 7 ∧ srcRead sixteen (7 - 7) 7 = some 0x07060504030201) ∧ (-9 : Int) < -8 ∧ (0 : Int) < 1 ∧ 6 < 0 + 7 ∧
    7 < 0 + 8 := by decide +kernel
theorem witness_FlushRefillsWholeBytes :
    (ReaderInv ⟨0, 0, 6, 0⟩ 16 ∧ 56 % 8 = 0 ∧ 0 + 56 ≤ 63 ∧ 56 ≤ 0 + 56 ∧ 6 < 0 + 56 / 8) ∧
    (ReaderInv ⟨1, 63, 0, 0⟩ 16 ∧ 0 % 8 = 0 ∧ 63 + 0 ≤ 63 ∧ 56 ≤ 63 + 0 ∧ 0 + 0 / 8 ≤ 0) ∧
    (ReaderInv ⟨0, 0, 16, 0⟩ 16 ∧ 0 + 56 / 8 ≤ 16) := by
  unfold ReaderInv
  decide +kernel
theorem witness_PullTakesTheTopBits : (2 ^ 63 - 1 : Nat) < 2 ^ 63 ∧ 10 + 53 ≤ 63 := by decide +kernel

theorem witness_OccurrenceRanges :
    (0 ≤ 31 ∧ 2 ^ 0 ≤ 1 ∧ 1 < 2 ^ (0 + 1) ∧ 1 ≤ 2 ^ 0) ∧ (31 ≤ 31 ∧ 2 ^ 31 ≤ 2 ^ 31 ∧ 2 ^ 31 < 2 ^ (31 + 1)) ∧
    (10 ≤ 31 ∧ 2 ^ 9 ≤ 1023 ∧ 1023 < 2 ^ (9 + 1) ∧ 1023 ≤ 2 ^ 10) := by decide +kernel
/-- `N = 64`, `f = 3`: one occurrence below `j0` and two above. -/
theorem witness_OccurrencesTileTheStates :
    6 ≤ 31 ∧ 1 ≤ 3 ∧ 3 ≤ 2 ^ 6 ∧ 5 = clz32 3 - clz32 (2 ^ 6) ∧ 1 = (2 * 2 ^ 6) >>> 5 - 3 ∧ 0 < 1 ∧ 1 ≤ 1 ∧ 2 < 3 ∧
    63 < 2 ^ 6 := by decide +kernel
theorem witness_TableSlotsFollowTheHistogram :
    freqSum [3, 61] ≤ 64 ∧ [3, 61][1]? = some 61 ∧ 60 < 61 ∧ freqSum [1, 2] ≤ 3 ∧ 3 < 8 := by decide +kernel
theorem witness_TableOverflow :
    hdrCheck { State.reset with magic := magicV1 } = 0#14 := by decide +kernel

/-- Results that go on, for the witnesses below. -/
def goesOn {α : Type} (r : Res α) : Bool :=
  match r with
  | .ok _ _ => true
  | _ => false
/-- The value of a result. -/
def valueOf {α : Type} (r : Res α) : Option α :=
  match r with
  | .ok a _ => some a
  | _ => none

/-- A lane-0 literal, which flushes first. -/
def mkLit0 : State :=
  { mk (List.replicate 16 0#8) 8 with
    phase := .lits, litIdx := 39996, tLit := [⟨true, 97, 10, 0⟩], litrd := ⟨0, 16, 16, 0⟩ }
theorem witness_LiteralSymbolCompletes :
    ((mkLit.tLit.getD (lane mkLit.ls mkLit.litIdx) .unassigned).assigned = true ∧ mkLit.litIdx < litBufSize ∧
      mkLit.litIdx % 4 ≠ 0 ∧ goesOn (pull .litrd 2 mkLit) = true) ∧
    ((mkLit0.tLit.getD (lane mkLit0.ls mkLit0.litIdx) .unassigned).assigned = true ∧ mkLit0.litIdx < litBufSize ∧
      mkLit0.litIdx % 4 = 0 ∧ goesOn (flush .litrd mkLit0) = true ∧
      goesOn ((flush .litrd mkLit0).bind fun _ t => pull .litrd 10 t) = true) := by decide +kernel
theorem witness_LiteralLengthCompletes :
    valueOf (flushPull .lmd 5 (mkLmd ⟨true, 5, 2, 12, 1⟩)) = some 3 ∧ 39985 + (12 + 3 % 2 ^ 2) = litBufSize ∧
    litBufSize < 39986 + (12 + 3 % 2 ^ 2) := by decide +kernel
theorem witness_MatchLengthAndDistanceComplete :
    ((mkLmd ⟨true, 23, 15, 9, 1⟩).tM.getD (mkLmd ⟨true, 23, 15, 9, 1⟩).mSt .unassigned).assigned = true ∧
    goesOn (flushPull .lmd 23 (mkLmd ⟨true, 23, 15, 9, 1⟩)) = true ∧
    ((mkLmd ⟨true, 0, 0, 0, 9⟩).tD.getD (mkLmd ⟨true, 0, 0, 0, 9⟩).dSt .unassigned).assigned = true ∧
    valueOf (flushPull .lmd 0 (mkLmd ⟨true, 0, 0, 0, 9⟩)) = some 0 := by decide +kernel
theorem witness_FseSymbolsStop :
    (goesOn (flush .lmd (mkLmd .unassigned)) = true ∧
      ((mkLmd .unassigned).tL.getD (mkLmd .unassigned).lSt .unassigned).assigned = false) ∧
    (mkLit.litIdx % 4 ≠ 0 ∧
      ({ mkLit with ls := ⟨0, 5, 0, 0⟩ }.tLit.getD (lane ⟨0, 5, 0, 0⟩ mkLit.litIdx) .unassigned).assigned = false) ∧
    ({ mkLmd .unassigned with lmd := ⟨0, 0, 6, 0⟩ }.lmd.pos < 0 + flushAdd 0 / 8) ∧
    (mkLit0.litIdx % 4 = 0 ∧ { mkLit0 with litrd := ⟨0, 0, 6, 0⟩ }.litrd.pos < 0 + flushAdd 0 / 8) := by decide +kernel

theorem witness_FrequencyCodesComplete :
    (IsFreqCode (.f14 24) 14 24 ∧ freqWindow (mkFreq [0x0F#8] 0) = some ⟨15, 8, 1, 1⟩ ∧ 8 < 14) ∧
    (IsFreqCode (.f2 1) 2 1 ∧ freqWindow (mkFreq [2#8] 358) = some ⟨2, 8, 1, 1⟩ ∧
      ((mkFreq [2#8] 358).freqs ++ [1]).length < 360) ∧
    (IsFreqCode (.f3 3) 3 3 ∧ freqWindow (mkFreq [5#8] 359) = some ⟨5, 8, 1, 1⟩ ∧
      360 ≤ ((mkFreq [5#8] 359).freqs ++ [3]).length ∧ 8 - 3 < 8) ∧
    (IsFreqCode (.f8 8) 8 8 ∧ freqWindow (mkFreq [7#8, 0#8] 359) = some ⟨7, 16, 2, 2⟩ ∧ 8 ≤ 16 - 8) ∧
    (IsFreqCode (.f5 4) 5 4 ∧ freqWindow (mkFreq [3#8, 0#8, 0#8, 0#8, 0#8] 359) = some ⟨3, 32, 4, 5⟩ ∧ 4 ≠ 5) := by
  unfold IsFreqCode
  decide +kernel
theorem witness_FrequencyRefill :
    (mkFreq [1#8] 0).freq.q ≤ (mkFreq [1#8] 0).freq.qend ∧ (mkFreq [1#8] 0).freq.qend ≤ (mkFreq [1#8] 0).srcLen ∧
    (mkFreq [1#8] 0).freq.nb ≤ 32 ∧ (mkFreq [1#8] 0).freq.acc < 2 ^ (mkFreq [1#8] 0).freq.nb := by decide +kernel

/-- A machine at the header check, with 16 bytes of SRC and a header of no bytes. -/
def setupState (h : Header) : State := { mk (List.replicate 16 0#8) 8 with phase := .setup, magic := magicV1, hdr := h }
theorem witness_HeaderCheck :
    (setupState { Header.zero with lState := 64 }).status = .running ∧
    (setupState { Header.zero with lState := 64 }).phase = .setup ∧
    hdrCheck (setupState { Header.zero with lState := 64 }) ≠ 0#14 := by decide +kernel
/-- The payloads end one byte past SRC; end with SRC; and the literal payload is too short for a reader. -/
theorem witness_SetupBuildsTheTables :
    (hdrCheck (setupState { Header.zero with nLitPayload := 9, nLmdPayload := 8 }) = 0#14 ∧
      (setupState { Header.zero with nLitPayload := 9, nLmdPayload := 8 }).srcLen < 0 + 0 + 9 + 8) ∧
    (hdrCheck (setupState { Header.zero with nLitPayload := 8, nLmdPayload := 8 }) = 0#14 ∧
      0 + 0 + 8 + 8 ≤ (setupState { Header.zero with nLitPayload := 8, nLmdPayload := 8 }).srcLen ∧
      goesOn (readerInit .litrd 0 (0 + 0 + 8) 0 (setupState { Header.zero with nLitPayload := 8, nLmdPayload := 8 })) = true) ∧
    (hdrCheck (setupState Header.zero) = 0#14 ∧
      (match readerInit .litrd 0 0 0 (setupState Header.zero) with
        | .ended _ => true
        | _ => false) = true) := by decide +kernel
theorem witness_SetupEndsWithTheTripletRegisters :
    { setupState { Header.zero with nLmdPayload := 7 } with phase := .lits }.status = .running ∧
    litGoal { setupState { Header.zero with nLmdPayload := 7 } with phase := .lits } ≤ 0 ∧
    goesOn (readerInit .lmd 0 (0 + 0 + 0 + 7) 0
      { setupState { Header.zero with nLmdPayload := 7 } with phase := .lits }) = true := by decide +kernel

/-- Too few bytes for the L/M/D reader. -/
theorem witness_SetupEndsWithTheTripletRegisters_raise :
    litGoal { setupState Header.zero with phase := .lits } ≤ 0 ∧
    (match readerInit .lmd 0 0 0 { setupState Header.zero with phase := .lits } with
      | .ended _ => true
      | _ => false) = true := by decide +kernel
theorem witness_TripletStepChecksAndEnds :
    ({ mk [] 0 with blk := .v1 }.srcLen ≤ { mk [] 0 with blk := .v1 }.srcPos) ∧
    ({ mk [1#8] 0 with blk := .v2, lmdPay := 2 }.srcLen - 0 < 2) ∧
    (0 < { mk [1#8] 0 with blk := .v2, lmdPay := 1 }.srcLen ∧ 1 ≤ { mk [1#8] 0 with blk := .v2, lmdPay := 1 }.srcLen - 0 ∧
      { mk [1#8] 0 with blk := .v2, lmdPay := 1 }.L = 0 ∧ { mk [1#8] 0 with blk := .v2, lmdPay := 1 }.M = 0 ∧
      { mk [1#8] 0 with blk := .v2, lmdPay := 1 }.nRem = 0) := by decide +kernel
/-- A fresh triplet and a pending one come to Execute. -/
theorem witness_AtExecute :
    AtExecute (mkTriplet [5#8] [1#8] 9 1 3 (some 2)) ∧
    AtExecute { mk [1#8] 9 with blk := .v2, M := 1, D := some 1 } := by
  unfold AtExecute
  decide +kernel
theorem witness_ExecuteStops :
    (mkTriplet [] [1#8] 9 1 0 none).D = none ∧
    ((mkTriplet [] [1#8] 9 1 0 (some 3)).D = some 3 ∧ (mkTriplet [] [1#8] 9 1 0 (some 3)).dstPos + 1 < 3) ∧
    ((mkTriplet [5#8] [1#8] 9 2 0 (some 3)).D = some 3 ∧ 3 ≤ (mkTriplet [5#8] [1#8] 9 2 0 (some 3)).dstPos + 2 ∧
      (mkTriplet [5#8] [1#8] 9 2 0 (some 3)).litPos + 2 ≤ litBufSize ∧ 1 < 2 ∧ 1 < 9 - 1 ∧
      litWritten (mkTriplet [5#8] [1#8] 9 2 0 (some 3)) (0 + 1) = false) := by decide +kernel
/-- The room is exactly the triplet (slow path) and the triplet with the margin (fast path). -/
theorem witness_ExecuteCompletes :
    [5, 37].all (fun cap =>
      let s := mkTriplet [5#8] [1#8] cap 1 3 (some 2)
      decide (s.D = some 2 ∧ 2 ≤ s.dstPos + s.L ∧ (∀ p < s.dstPos, memRead .dst s.dst p ≠ none) ∧ s.dstPos ≤ s.dstCap ∧
        s.L + s.M ≤ s.dstCap - s.dstPos ∧ s.litPos + s.L ≤ litBufSize ∧
        (∀ j < s.L, litWritten s (s.litPos + j) = true))) = true := by decide +kernel
/-- The room ends before the literals, and inside the match. -/
theorem witness_ExecuteKeepsTheRest :
    [(1, 0, 0), (4, 3, 1)].all (fun x =>
      let s := mkTriplet [5#8] [1#8] x.1 1 3 (some 2)
      decide (s.D = some 2 ∧ 2 ≤ s.dstPos + s.L ∧ (∀ p < s.dstPos, memRead .dst s.dst p ≠ none) ∧ s.dstPos ≤ s.dstCap ∧
        x.2.1 = s.dstCap - s.dstPos ∧ x.2.1 < s.L + s.M ∧ x.2.2 = min s.L x.2.1 ∧ s.litPos + s.L ≤ litBufSize ∧
        (∀ j < x.2.2, litWritten s (s.litPos + j) = true))) = true := by decide +kernel

/-- A check of the invariant that can be evaluated. -/
theorem inv_of {s : State} (h0 : s.cfg = Config.default)
    (h1 : (Memory.wf .src s.src && Memory.wf .dst s.dst && Memory.wf .lit s.lit &&
      s.src.all (fun c => decide (c.1 < s.srcLen)) && s.dst.all (fun c => decide (c.1 < s.dstPos)) &&
      s.lit.all (fun c => decide (c.1 < litBufSize)) &&
      decide (∀ p < s.dstPos, memRead .dst s.dst p ≠ none)) = true)
    (h2 : s.srcPos ≤ s.srcLen ∧ s.dstPos ≤ s.dstCap ∧ s.cause = none ∧ s.status = .running)
    (h3 : LzvnInv s) (h4 : LzfseInv s) (h5 : SetupInv s)
    (h6 : (s.tLit.all (fun e => decide (e.nbits ≤ s.cfg.litLog.val)) && s.tL.all (fun e => decide (e.totalBits ≤ s.cfg.lBits)) &&
      s.tM.all (fun e => decide (e.totalBits ≤ s.cfg.mBits)) && s.tD.all (fun e => decide (e.totalBits ≤ s.cfg.dBits))) = true) :
    Inv s := by
  obtain ⟨a, b, c, d⟩ := h2
  simp only [Bool.and_eq_true, List.all_eq_true, decide_eq_true_eq] at h1 h6
  refine ⟨h0 ▸ default_Wf, ?_, ⟨a, b⟩, by simp [CauseInv, c, d], by simp [StopInv, d], fun _ => ⟨h3, h4, h5, ?_⟩⟩
  · obtain ⟨⟨⟨⟨⟨⟨m1, m2⟩, m3⟩, m4⟩, m5⟩, m6⟩, m7⟩ := h1
    exact ⟨m1, m2, m3, m4, m5, m6, m7⟩
  · obtain ⟨⟨⟨t1, t2⟩, t3⟩, t4⟩ := h6
    exact ⟨t1, t2, t3, t4⟩

/-- A RAW block that fills DST, an LZVN opcode that does, and a triplet that does. -/
theorem witness_inv_raw : Inv (rawState 5 3 0) := by
  refine inv_of rfl (by decide +kernel) (by decide +kernel) ?_ ?_ ?_ (by decide +kernel)
  · unfold LzvnInv; decide +kernel
  · unfold LzfseInv ReaderInv; decide +kernel
  · unfold SetupInv ReaderInv; decide +kernel
theorem witness_inv_lzvn : Inv (mkVn [0xF5#8, 0x06#8] [1#8, 2#8, 3#8] 5 10 9 3) := by
  refine inv_of rfl (by decide +kernel) (by decide +kernel) ?_ ?_ ?_ (by decide +kernel)
  · unfold LzvnInv; decide +kernel
  · unfold LzfseInv ReaderInv; decide +kernel
  · unfold SetupInv ReaderInv; decide +kernel
/-- A triplet of a V1 block with one byte of L/M/D payload, and room for 2 of its 4 bytes. -/
def fullTriplet : State := { mkTriplet [5#8] [1#8] 3 1 3 (some 2) with src := [(0, 9#8)], srcLen := 1, lmdPay := 1 }
theorem witness_inv_triplet : Inv fullTriplet := by
  refine inv_of rfl (by decide +kernel) (by decide +kernel) ?_ ?_ ?_ (by decide +kernel)
  · unfold LzvnInv; decide +kernel
  · unfold LzfseInv ReaderInv; decide +kernel
  · unfold SetupInv ReaderInv; decide +kernel
theorem witness_inv_eos : Inv eosState := by
  refine inv_of rfl (by decide +kernel) (by decide +kernel) ?_ ?_ ?_ (by decide +kernel)
  · unfold LzvnInv; decide +kernel
  · unfold LzfseInv ReaderInv; decide +kernel
  · unfold SetupInv ReaderInv; decide +kernel
/-- The steps from these states: a DST_FULL stop in each kind of block, an SRC_EMPTY stop, and the end of a stream. -/
theorem witness_whole_machine_steps :
    seen (step (rawState 5 3 0)) (fun t => (t.status, t.dstPos)) = some (.dstFull, 0) ∧
    seen (step (mkVn [0xF5#8, 0x06#8] [1#8, 2#8, 3#8] 5 10 9 3)) (fun t => (t.status, t.vnM)) = some (.dstFull, 3) ∧
    seen (step fullTriplet) (fun t => (t.status, t.M)) = some (.dstFull, 2) ∧
    seen (step (rawState 5 0 0)) (fun t => t.status) = some .srcEmpty ∧
    seen (step eosState) (fun t => (t.status, t.eosSeen)) = some (.ok, true) ∧ eosState.phase ≠ .setup := by
  decide +kernel
/-- The bounds of the numbered registers hold one after the other; the tables and the header are checked by evaluation. -/
theorem witness_InRange : InRange eosState := by
  refine ⟨default_Wf, ?_⟩
  iterate 16 refine And.intro (by decide +kernel) ?_
  have none_distance : eosState.D = none := rfl
  refine ⟨fun d h => absurd (none_distance.symm.trans h) (by simp), ?_, ?_, ?_, ?_, ?_⟩
  · unfold SymTableInRange; decide +kernel
  · unfold ValTableInRange; decide +kernel
  · unfold ValTableInRange; decide +kernel
  · unfold ValTableInRange; decide +kernel
  · unfold HeaderInRange; decide +kernel
theorem witness_UnspecifiedBytesNeverMatter : SameButDraws eosState { eosState with draws := 7 } := rfl

/-- A host command on an idle core. -/
def idle (st : Status) (c : Option Command) : State := { mk [1#8, 2#8] 3 with status := st, cmd := c }
theorem witness_StartResets :
    (idle .ok (some (.start ⟨[9#8], 0, true, true⟩))).status ≠ .running ∧
    (idle .ok (some (.start ⟨[9#8], 0, true, true⟩))).cmd = some (.start ⟨[9#8], 0, true, true⟩) ∧
    [9#8].length < 2 ^ 64 ∧ 0 < 2 ^ 64 ∧ (State.beforeStart .default).status ≠ .running := by decide +kernel
theorem witness_ResumeKeepsAllOtherState :
    MemInv (idle .dstFull none) ∧ (idle .dstFull none).status = .dstFull ∧ [1#8, 2#8].length < 2 ^ 64 ∧
    (∀ p < (idle .dstFull none).srcLen, [1#8, 2#8][p]? = srcByte (idle .dstFull none) p) ∧
    (idle .dstFull none).dstCap ≤ 3 := by
  unfold MemInv DstFilled
  decide +kernel
theorem witness_RefusedCommandsChangeNothing :
    (idle .running none).status = .running ∧ (idle .ok none).status ≠ .running ∧ (idle .ok none).cmd = none ∧
    (idle .malformed none).status ≠ .srcEmpty ∧ (idle .malformed none).status ≠ .dstFull ∧
    [1#8].length < (idle .srcEmpty none).srcLen ∧
    (1 < (idle .srcEmpty none).srcLen ∧ [1#8, 3#8][1]? ≠ srcByte (idle .srcEmpty none) 1) ∧
    2 < (idle .srcEmpty none).dstCap := by decide +kernel
/-- Commands refused for each premise of a launch: overlap, length, and DST bytes not kept; and one that is none of these. -/
theorem witness_RefusedCommandsChangeNothing_premises :
    [Command.start ⟨[9#8], 1, false, true⟩, .start ⟨[9#8], 2 ^ 64, true, true⟩, .resume ⟨[1#8, 2#8], 3, false, true⟩,
      .resume ⟨[1#8, 2#8], 2 ^ 64, true, true⟩, .resume ⟨[1#8, 2#8], 3, true, false⟩].all (fun c =>
      let s := idle .dstFull (some c)
      decide (seen (step s) (fun t => t) = some { s with cmd := none })) = true ∧
    seen (step (idle .dstFull (some (.resume ⟨[1#8, 2#8], 3, true, true⟩)))) (fun t => t.status) = some .running := by
  decide +kernel

/-- The ends of runs: OK, DST_FULL, SRC_EMPTY, MALFORMED, and a fault (a V2 block without frequencies that claims a literal). -/
theorem witness_WrapperResult :
    seen (startRun ⟨[0x62#8, 0x76#8, 0x78#8, 0x24#8], 8, true, true⟩ (State.beforeStart .default)) (fun t => t.status) = some .ok ∧
    seen (startRun ⟨[0x62#8, 0x76#8, 0x78#8, 0x2D#8, 2#8, 0#8, 0#8, 0#8, 7#8], 1, true, true⟩ (State.beforeStart .default))
      (fun t => (t.status, t.dstPos)) = some (.srcEmpty, 1) ∧
    seen (startRun ⟨[0x62#8, 0x76#8, 0x78#8, 0x2D#8, 2#8, 0#8, 0#8, 0#8, 7#8, 7#8], 1, true, true⟩ (State.beforeStart .default))
      (fun t => (t.status, t.dstPos)) = some (.dstFull, 1) ∧
    seen (startRun ⟨[0xFF#8, 0xFF#8, 0xFF#8, 0xFF#8], 8, true, true⟩ (State.beforeStart .default)) (fun t => t.status) =
      some .malformed ∧
    faultOf (startRun ⟨encode (.bvx2 { zeroV2 with nLiterals := 1 }), 8, true, true⟩ (State.beforeStart .default)) =
      some .unassignedSlot := by decide +kernel
/-- The ports of a core that runs, has not been started, has stopped, and has faulted. -/
theorem witness_Ports :
    readPorts (idle .running none) = none ∧ readPorts (State.beforeStart .default) = none ∧
    readPorts (idle .srcEmpty none) = some ⟨-1, none, 0, 0⟩ ∧
    (readPorts (latchFault .staleLiteral (idle .running none))).map (fun p => (p.status, p.cause)) =
      some (-4, some .staleLiteral) ∧
    readDst { mkVn [] [7#8] 2 0 0 0 with status := .ok } 0 = some 7#8 ∧
    observe (.next { mkVn [] [7#8] 2 0 0 0 with status := .ok }) = some (.final .ok none 1 0 [some 7#8]) := by
  decide +kernel
theorem witness_EveryRunEnds : (State.beforeStart .default).cfg.Wf := default_Wf

/-- Parameters beside the defaults fit the core, and ones whose values need more bits than a flush gives do not. -/
theorem test_config_wf :
    { Config.default with litLog := 14, lLog := 5, lBase := List.replicate 20 7 }.Wf ∧
    { Config.default with lBase := List.replicate 20 7 }.lTop = 7 + 256 ∧
    ¬ { Config.default with litLog := 15 }.Wf ∧ ¬ { Config.default with dBase := [1] }.Wf := by
  unfold Config.Wf
  decide +kernel

end Witnesses

end Sys2Proof.Tests
end

/-! PROOFS. The backward bit reader (40_bitreader.md): what init, flush and pull do to its window, and from that the
statements of the family. -/

namespace Sys2Proof.Machine

/-! ## The value of a run of SRC bytes -/

theorem leNat_lt (bs : List Byte) : leNat bs < 2 ^ (8 * bs.length) := by
  induction bs with
  | nil => simp [leNat]
  | cons b bs ih =>
    have hb : b.toNat < 256 := b.isLt
    have hpow : 2 ^ (8 * (b :: bs).length) = 256 * 2 ^ (8 * bs.length) := by
      rw [List.length_cons, Nat.mul_succ, Nat.pow_add, Nat.mul_comm]
    rw [hpow, leNat]
    omega

theorem srcRead_lt {s : State} {p n v : Nat} (h : srcRead s p n = some v) : v < 2 ^ (8 * n) := by
  obtain ⟨bs, hbs, rfl⟩ := Option.map_eq_some_iff.1 h
  simpa [srcBytes_length hbs] using leNat_lt bs

theorem srcRead_below_exists {s : State} {e k : Nat} (hk : k ≤ e) (he : e ≤ s.srcLen) :
    ∃ v, srcRead s (e - k) k = some v :=
  Option.isSome_iff_exists.1 (srcRead_isSome s (e - k) k (by omega))

/-! ## The window after init and flush -/

/-- The window of R151: 56 to 63 valid bits and nothing above them. -/
def ReaderFull (r : BitReader) : Prop := 56 ≤ r.nbits ∧ r.nbits ≤ 63 ∧ r.acc < 2 ^ r.nbits

/-- The checks that end an init pass exactly a full window. -/
theorem readerCheck_of_full {w : ReaderId} {s : State} (h : ReaderFull (reader w s)) : readerCheck w s = .ok () s := by
  obtain ⟨hlo, hhi, hacc⟩ := h
  have hcount : ¬ ((reader w s).nbits < 56 ∨ 63 < (reader w s).nbits) := by omega
  simp [readerCheck, hcount, Nat.shiftRight_eq_div_pow, Nat.div_eq_of_lt hacc]

theorem readerCheck_of_not_full {w : ReaderId} {s : State} (h : ¬ ReaderFull (reader w s)) :
    readerCheck w s = .ended (raiseMalformed .bitstreamInit s) := by
  simp only [readerCheck, Nat.shiftRight_eq_div_pow]
  split
  · rfl
  · rename_i hcount
    have hacc : ¬ (reader w s).acc < 2 ^ (reader w s).nbits := fun hacc => h ⟨by omega, by omega, hacc⟩
    simp [Nat.div_eq_zero_iff, hacc]

theorem readerCheck_ok {w : ReaderId} {s t : State} (h : readerCheck w s = .ok () t) : t = s ∧ ReaderFull (reader w s) := by
  by_cases hf : ReaderFull (reader w s)
  · rw [readerCheck_of_full hf] at h
    cases h
    exact ⟨rfl, hf⟩
  · rw [readerCheck_of_not_full hf] at h
    cases h

/-! ## Init -/

/-- The bytes an init loads (R152). -/
def initBytes (n : Int) : Nat := if n = 0 then 7 else 8

/-- The reader an init leaves before its checks, having loaded the value `v` (R152). -/
def initReader (n : Int) (e lo v : Nat) : BitReader := ⟨v, if n = 0 then 56 else (n + 64).toNat, e - initBytes n, lo⟩

theorem readerInit_short {w : ReaderId} {n : Int} {e lo : Nat} (s : State) (h : e < lo + initBytes n) :
    readerInit w n e lo s =
      .ended (raiseMalformed .bitstreamInit (setReader w { reader w s with lower := lo } s)) :=
  if_pos h

theorem readerInit_loads {w : ReaderId} {n : Int} {e lo v : Nat} {s : State} (h : lo + initBytes n ≤ e)
    (hv : srcRead s (e - initBytes n) (initBytes n) = some v) :
    readerInit w n e lo s = readerCheck w (setReader w (initReader n e lo v) s) := by
  simp only [initBytes] at h hv
  simp [readerInit, initReader, initBytes, Nat.not_lt.2 h, hv]

/-- Any other amount than -8 to 0 gives a count outside the window. -/
theorem initReader_full_range {n : Int} {e lo v : Nat} (h : ReaderFull (initReader n e lo v)) : -8 ≤ n ∧ n ≤ 0 := by
  obtain ⟨hlo, hhi, -⟩ := h
  by_cases hzero : n = 0
  · omega
  · simp only [initReader, if_neg hzero] at hlo hhi
    omega

/-- An init that goes on has passed its checks. -/
theorem readerInit_ok {w : ReaderId} {n : Int} {e lo : Nat} {s t : State} (h : readerInit w n e lo s = .ok () t) :
    ReaderFull (reader w t) := by
  by_cases hshort : e < lo + initBytes n
  · rw [readerInit_short s hshort] at h
    cases h
  · cases hv : srcRead s (e - initBytes n) (initBytes n) with
    | none =>
      simp only [initBytes] at hshort hv
      simp [readerInit, hshort, hv] at h
    | some v =>
      rw [readerInit_loads (Nat.not_lt.1 hshort) hv] at h
      obtain ⟨rfl, hfull⟩ := readerCheck_ok h
      exact hfull

/-! ## Flush -/

/-- The reader a flush leaves, having loaded the value `v` (R155). -/
def refilled (r : BitReader) (v : Nat) : BitReader :=
  ⟨r.acc * 2 ^ flushAdd r.nbits + v, r.nbits + flushAdd r.nbits, r.pos - flushAdd r.nbits / 8, r.lower⟩

theorem flushAdd_eq {n add : Nat} (h8 : add % 8 = 0) (hhi : n + add ≤ 63) (hlo : 56 ≤ n + add) : flushAdd n = add := by
  simp only [flushAdd]
  omega

theorem srcRead_lt_flushAdd {s : State} {p k v : Nat} (h : srcRead s p (flushAdd k / 8) = some v) : v < 2 ^ flushAdd k := by
  have hbits : 8 * (flushAdd k / 8) = flushAdd k := by
    simp only [flushAdd]
    omega
  simpa [hbits] using srcRead_lt h

theorem flush_short {w : ReaderId} {s : State}
    (h : (reader w s).pos < (reader w s).lower + flushAdd (reader w s).nbits / 8) :
    flush w s = .ended (raiseMalformed .bitstreamFlush s) :=
  if_pos h

theorem flush_refills {w : ReaderId} {s : State} {v : Nat}
    (h : (reader w s).lower + flushAdd (reader w s).nbits / 8 ≤ (reader w s).pos)
    (hv : srcRead s ((reader w s).pos - flushAdd (reader w s).nbits / 8) (flushAdd (reader w s).nbits / 8) = some v) :
    flush w s = .ok () (setReader w (refilled (reader w s) v) s) := by
  have hor : (reader w s).acc <<< flushAdd (reader w s).nbits ||| v =
      (reader w s).acc * 2 ^ flushAdd (reader w s).nbits + v := by
    rw [← Nat.shiftLeft_add_eq_or_of_lt (srcRead_lt_flushAdd hv), Nat.shiftLeft_eq]
  simp only [flush, refilled, Nat.not_lt.2 h, if_false, hv, hor]

/-- A refill puts the loaded bits under the ones held, so the window is full and stays clean above. -/
theorem refilled_full {r : BitReader} {v : Nat} (hn : r.nbits ≤ 63) (hacc : r.acc < 2 ^ r.nbits)
    (hv : v < 2 ^ flushAdd r.nbits) : ReaderFull (refilled r v) := by
  obtain ⟨hlo, hhi, -⟩ := flushAdd_range r.nbits hn
  refine ⟨hlo, hhi, ?_⟩
  calc r.acc * 2 ^ flushAdd r.nbits + v < (r.acc + 1) * 2 ^ flushAdd r.nbits := by
        rw [Nat.add_one_mul]
        omega
    _ ≤ 2 ^ r.nbits * 2 ^ flushAdd r.nbits := Nat.mul_le_mul_right _ hacc
    _ = 2 ^ (r.nbits + flushAdd r.nbits) := (Nat.pow_add ..).symm

theorem flush_ok_full {w : ReaderId} {s t : State} (h : flush w s = .ok () t) (hn : (reader w s).nbits ≤ 63)
    (hacc : (reader w s).acc < 2 ^ (reader w s).nbits) : ReaderFull (reader w t) := by
  obtain ⟨hroom, v, hv, -⟩ := flush_ok h
  rw [flush_refills hroom hv] at h
  cases h
  simpa using refilled_full hn hacc (srcRead_lt_flushAdd hv)

/-! ## Pull -/

/-- The reader a pull of `n` bits leaves (R156). -/
def pulled (r : BitReader) (n : Nat) : BitReader :=
  { r with acc := r.acc % 2 ^ (r.nbits - n), nbits := r.nbits - n }

theorem pull_takes {w : ReaderId} {n : Nat} {s : State} (h : n ≤ (reader w s).nbits) :
    pull w n s = .ok ((reader w s).acc / 2 ^ ((reader w s).nbits - n)) (setReader w (pulled (reader w s) n) s) :=
  pull_eq_ok.2 ⟨h, (Nat.shiftRight_eq_div_pow ..).symm, rfl⟩

/-- The bits a pull answers fit its length. -/
theorem topBits_lt {acc nbits n : Nat} (hacc : acc < 2 ^ nbits) (hn : n ≤ nbits) : acc / 2 ^ (nbits - n) < 2 ^ n := by
  rwa [Nat.div_lt_iff_lt_mul (Nat.two_pow_pos _), ← Nat.pow_add, Nat.add_sub_cancel' hn]

theorem pulled_readerInv {r : BitReader} {srcLen : Nat} (h : ReaderInv r srcLen) (n : Nat) :
    ReaderInv (pulled r n) srcLen := by
  obtain ⟨hn, -, hpos⟩ := h
  exact ⟨(Nat.sub_le ..).trans hn, Nat.mod_lt _ (Nat.two_pow_pos _), hpos⟩

/-- With `c` bits left below them, the upper bits put above the next `b` bits are the bits of one longer run. -/
theorem upper_lower_bits (acc b c : Nat) :
    acc / 2 ^ (c + b) * 2 ^ b + acc % 2 ^ (c + b) / 2 ^ c = acc / 2 ^ c := by
  rw [Nat.pow_add, Nat.mod_mul_right_div_self, ← Nat.div_div_eq_div_mul, Nat.div_add_mod']

theorem pulled_pulled (r : BitReader) (a b : Nat) : pulled (pulled r a) b = pulled r (a + b) := by
  have hmod : r.acc % 2 ^ (r.nbits - a) % 2 ^ (r.nbits - (a + b)) = r.acc % 2 ^ (r.nbits - (a + b)) :=
    Nat.mod_mod_of_dvd _ (Nat.pow_dvd_pow 2 (by omega))
  simp [pulled, Nat.sub_sub, hmod]

theorem pull_add {w : ReaderId} {a b : Nat} {s : State} (h : a + b ≤ (reader w s).nbits) :
    pull w (a + b) s =
      (pull w a s).bind fun x s1 => (pull w b s1).bind fun y s2 => .ok (x * 2 ^ b + y) s2 := by
  obtain ⟨c, hc⟩ := Nat.exists_eq_add_of_le h
  have hleft : (reader w s).nbits - a = c + b := by omega
  have hleft2 : (reader w s).nbits - (a + b) = c := by omega
  have hb : b ≤ (reader w (setReader w (pulled (reader w s) a) s)).nbits := by
    simp [pulled, hleft]
  rw [pull_takes h, pull_takes (show a ≤ (reader w s).nbits by omega), Res.bind_ok, pull_takes hb, Res.bind_ok]
  rw [reader_setReader_same, setReader_setReader, pulled_pulled]
  simp only [pulled, hleft, hleft2, Nat.add_sub_cancel, upper_lower_bits]

/-- A pull of at most 56 bits can follow a flush that goes on (R157). -/
theorem flushPull_after_flush {w : ReaderId} {n : Nat} {s t : State} (hf : flush w s = .ok () t) (hn : n ≤ 56)
    (hinv : ReaderInv (reader w s) s.srcLen) :
    ∃ b u, flushPull w n s = .ok b u ∧ b < 2 ^ n ∧ ReaderInv (reader w u) s.srcLen := by
  obtain ⟨hbits, hacc, hpos⟩ := hinv
  obtain ⟨hlo, hhi, hacc'⟩ := flush_ok_full hf hbits hacc
  obtain ⟨-, v, -, ht⟩ := flush_ok hf
  have hpos' : (reader w t).pos ≤ s.srcLen := by
    simp only [ht, reader_setReader_same]
    omega
  have hroom : n ≤ (reader w t).nbits := hn.trans hlo
  have hpull : flushPull w n s = pull w n t := by rw [flushPull, hf, Res.bind_ok]
  refine ⟨_, _, hpull.trans (pull_takes hroom), topBits_lt hacc' hroom, ?_⟩
  rw [reader_setReader_same]
  exact pulled_readerInv ⟨hhi, hacc', hpos'⟩ n

end Sys2Proof.Machine

namespace Sys2Proof.Proofs.Reader
open Sys2Proof.Machine

/-! ## The statements of the family -/

/-- Settles O24: the checks of an init and the refill of a flush both leave a full window. -/
theorem readerWindow : Obligations.ReaderWindow := by
  unfold Obligations.ReaderWindow
  intro w s t
  constructor
  · rintro (⟨n, e, lo, hinit⟩ | ⟨hflush, hn, hacc⟩)
    · exact readerInit_ok hinit
    · exact flush_ok_full hflush hn hacc
  · intro n b hpull
    obtain ⟨hn, -, rfl⟩ := pull_eq_ok.1 hpull
    simpa using Nat.sub_add_cancel hn

/-- Settles O25: an init either is short of bytes, or it loads them and its checks decide. -/
theorem readerInit : Obligations.ReaderInit := by
  unfold Obligations.ReaderInit
  intro w s n e lo he
  refine ⟨fun v hlo hneg hroom hv => ?_, fun v hzero hroom hv => ?_, fun hbad => ?_⟩
  · have hbytes : initBytes n = 8 := if_neg hneg.ne
    have hreader : initReader n e lo v = ⟨v, (n + 64).toNat, e - 8, lo⟩ := by simp [initReader, hbytes, hneg.ne]
    rw [readerInit_loads (by rwa [hbytes]) (by rwa [hbytes]), hreader]
    refine ⟨fun hclean => readerCheck_of_full ?_, fun hstray => readerCheck_of_not_full ?_⟩
    · rw [reader_setReader_same]
      exact ⟨by simp only; omega, by simp only; omega, hclean⟩
    · rw [reader_setReader_same]
      exact fun ⟨_, _, hclean⟩ => hclean.not_ge hstray
  · subst hzero
    rw [readerInit_loads hroom hv]
    apply readerCheck_of_full
    rw [reader_setReader_same]
    exact ⟨le_rfl, by simp [initReader], srcRead_lt hv⟩
  · by_cases hshort : e < lo + initBytes n
    · exact ⟨_, readerInit_short s hshort⟩
    · have hcount : n < -8 ∨ 0 < n := by
        simp only [initBytes] at hshort
        split at hshort <;> omega
      obtain ⟨v, hv⟩ := srcRead_below_exists (k := initBytes n) (by omega) he
      refine ⟨initReader n e lo v, ?_⟩
      rw [readerInit_loads (by omega) hv]
      apply readerCheck_of_not_full
      rw [reader_setReader_same]
      intro hfull
      have hrange := initReader_full_range hfull
      omega

/-- Settles O26: the refill amount is `flushAdd`, and its bytes lie in SRC because `pos` does. -/
theorem flushRefillsWholeBytes : Obligations.FlushRefillsWholeBytes := by
  unfold Obligations.FlushRefillsWholeBytes
  intro w s add hinv h8 hhi hlo
  have ⟨_, _, hpos⟩ := hinv
  obtain rfl := flushAdd_eq h8 hhi hlo
  refine ⟨flush_short, fun hroom => ?_⟩
  obtain ⟨v, hv⟩ := srcRead_below_exists (Nat.le_of_add_left_le hroom) hpos
  have hflush := flush_refills hroom hv
  exact ⟨v, hv, hflush, fun n hn => flushPull_after_flush hflush hn hinv⟩

/-- Settles O27: a pull divides by the weight of the bits it leaves, and the quotient and remainder of two pulls compose. -/
theorem pullTakesTheTopBits : Obligations.PullTakesTheTopBits := by
  unfold Obligations.PullTakesTheTopBits
  intro w s a b hacc hab
  have ha : a ≤ (reader w s).nbits := by omega
  exact ⟨pull_takes ha, topBits_lt hacc ha, pull_add hab⟩

end Sys2Proof.Proofs.Reader

/-! PROOFS. The FSE tables (41_fse.md): the occurrences of one symbol tile the states, and the builders lay the symbols out
one after another; from that the statements of the family. -/

namespace Sys2Proof.Machine

/-! ## One symbol's occurrences -/

/-- The setting of R182: a frequency `f` in `[2^m, 2^(m+1))` and a table of `2^(m+k)` states that holds it. Its `k` is the bit
count of R181, and its `2^(m+1) - f` is the `j0` there. -/
structure FreqOctave (m k f : Nat) : Prop where
  small : m + k ≤ 31
  lower : 2 ^ m ≤ f
  upper : f < 2 ^ (m + 1)
  fits : f ≤ 2 ^ (m + k)

theorem clz32_of_octave {m f : Nat} (hlo : 2 ^ m ≤ f) (hhi : f < 2 ^ (m + 1)) : clz32 f = 31 - m := by
  have hf : f ≠ 0 := (Nat.two_pow_pos m |>.trans_le hlo).ne'
  rw [clz32, (Nat.log2_eq_iff hf).2 ⟨hlo, hhi⟩]

theorem clz32_two_pow (n : Nat) : clz32 (2 ^ n) = 31 - n := by rw [clz32, Nat.log2_two_pow]

theorem octave_mul (m k : Nat) : 2 ^ (m + 1) * 2 ^ k = 2 * 2 ^ (m + k) := by ring

theorem doubled_shiftRight (m k : Nat) : (2 * 2 ^ (m + k)) >>> k = 2 ^ (m + 1) := by
  rw [Nat.shiftRight_eq_div_pow, ← octave_mul, Nat.mul_div_cancel _ (Nat.two_pow_pos k)]

namespace FreqOctave
variable {m k f : Nat} (h : FreqOctave m k f)
include h

theorem clz32_sub : clz32 f - clz32 (2 ^ (m + k)) = k := by
  have hsmall := h.small
  rw [clz32_of_octave h.lower h.upper, clz32_two_pow]
  omega

/-- An occurrence below `j0` reads `k` bits (R181). -/
theorem occurrence_below {j : Nat} (hj : j < 2 ^ (m + 1) - f) :
    occurrence (2 ^ (m + k)) f j = (k, (f + j) * 2 ^ k - 2 ^ (m + k)) := by
  simp only [occurrence, h.clz32_sub, doubled_shiftRight, if_pos hj, Nat.shiftLeft_eq]

/-- An occurrence from `j0` on reads `k - 1` bits (R181). -/
theorem occurrence_from {j : Nat} (hj : 2 ^ (m + 1) - f ≤ j) :
    occurrence (2 ^ (m + k)) f j = (k - 1, (j - (2 ^ (m + 1) - f)) * 2 ^ (k - 1)) := by
  simp only [occurrence, h.clz32_sub, doubled_shiftRight, if_neg hj.not_gt, Nat.shiftLeft_eq]

theorem occurrence_bits (j : Nat) :
    (occurrence (2 ^ (m + k)) f j).1 = if j < 2 ^ (m + 1) - f then k else k - 1 := by
  split
  · rw [h.occurrence_below ‹_›]
  · rw [h.occurrence_from (not_lt.1 ‹_›)]

/-- No occurrence reads `k - 1` bits with `k = 0`: then the symbol takes the whole table, and `j0` is its frequency (R182). -/
theorem bits_pos {j : Nat} (hj : 2 ^ (m + 1) - f ≤ j) (hjf : j < f) : 1 ≤ k := by
  refine Nat.one_le_iff_ne_zero.2 fun hk => ?_
  have hfits : f ≤ 2 ^ m := by simpa [hk] using h.fits
  have hpow := Nat.pow_succ (n := 2) (m := m)
  omega

theorem bits_eq_zero_iff : k = 0 ↔ f = 2 ^ (m + k) := by
  have hlo := h.lower
  have hfits := h.fits
  constructor
  · rintro rfl
    exact hfits.antisymm hlo
  · intro hf
    have hlt : 2 ^ (m + k) < 2 ^ (m + 1) := hf ▸ h.upper
    have := (Nat.pow_lt_pow_iff_right (by decide)).1 hlt
    omega

theorem states_le_above (j : Nat) : 2 ^ (m + k) ≤ (f + j) * 2 ^ k := by
  rw [Nat.pow_add]
  exact Nat.mul_le_mul_right _ (h.lower.trans (Nat.le_add_right f j))

theorem boundary_le_states : f * 2 ^ k - 2 ^ (m + k) ≤ 2 ^ (m + k) := by
  have hle : f * 2 ^ k ≤ 2 ^ (m + 1) * 2 ^ k := Nat.mul_le_mul_right _ h.upper.le
  rw [octave_mul] at hle
  omega

theorem bits_pos_of_lt_boundary {x : Nat} (hx : x < f * 2 ^ k - 2 ^ (m + k)) : 1 ≤ k := by
  refine Nat.one_le_iff_ne_zero.2 fun hk => ?_
  rw [← h.bits_eq_zero_iff.1 hk, hk] at hx
  omega

end FreqOctave

/-! ## The boundary of R185 between the two kinds of occurrences, in terms of quotients -/

theorem boundary_le_iff (m k f x : Nat) : f * 2 ^ k - 2 ^ (m + k) ≤ x ↔ f ≤ (x + 2 ^ (m + k)) / 2 ^ k := by
  rw [Nat.le_div_iff_mul_le (Nat.two_pow_pos k)]
  omega

theorem lt_states_iff (m k x : Nat) : x < 2 ^ (m + k) ↔ (x + 2 ^ (m + k)) / 2 ^ k < 2 ^ (m + 1) := by
  rw [Nat.div_lt_iff_lt_mul (Nat.two_pow_pos k), octave_mul]
  omega

/-- From `j0` on there are `2 * (f - 2^m)` occurrences, and together they take the states below the boundary. -/
theorem lt_boundary_iff {k : Nat} (hk : 1 ≤ k) (m f x : Nat) :
    x < f * 2 ^ k - 2 ^ (m + k) ↔ x / 2 ^ (k - 1) < 2 * (f - 2 ^ m) := by
  obtain ⟨c, rfl⟩ := Nat.exists_eq_add_of_le' hk
  have hspan : f * 2 ^ (c + 1) - 2 ^ (m + (c + 1)) = 2 * (f - 2 ^ m) * 2 ^ c := by
    rw [Nat.pow_add 2 m, ← Nat.sub_mul, Nat.pow_succ]
    ring
  rw [hspan, Nat.add_sub_cancel, Nat.div_lt_iff_lt_mul (Nat.two_pow_pos c)]

/-! ## The states that an occurrence reaches -/

/-- Occurrence `j` of a symbol of frequency `f` reaches state `x` by some pattern of its bits (R185). -/
def Reaches (n f j x : Nat) : Prop := (occurrence n f j).2 ≤ x ∧ x < (occurrence n f j).2 + 2 ^ (occurrence n f j).1

namespace FreqOctave
variable {m k f : Nat} (h : FreqOctave m k f)
include h

theorem reaches_below_iff {j x : Nat} (hj : j < 2 ^ (m + 1) - f) :
    Reaches (2 ^ (m + k)) f j x ↔ (x + 2 ^ (m + k)) / 2 ^ k = f + j := by
  have hpos := Nat.two_pow_pos k
  have hge := h.states_le_above j
  rw [Reaches, h.occurrence_below hj, Nat.div_eq_iff hpos]
  dsimp only
  omega

theorem reaches_from_iff {j x : Nat} (hj : 2 ^ (m + 1) - f ≤ j) :
    Reaches (2 ^ (m + k)) f j x ↔ x / 2 ^ (k - 1) = j - (2 ^ (m + 1) - f) := by
  have hpos := Nat.two_pow_pos (k - 1)
  rw [Reaches, h.occurrence_from hj, Nat.div_eq_iff hpos]
  dsimp only
  omega

theorem boundary_le_of_reaches_below {j x : Nat} (hj : j < 2 ^ (m + 1) - f) (hr : Reaches (2 ^ (m + k)) f j x) :
    f * 2 ^ k - 2 ^ (m + k) ≤ x := by
  rw [h.reaches_below_iff hj] at hr
  rw [boundary_le_iff]
  omega

theorem lt_boundary_of_reaches_from {j x : Nat} (hj : 2 ^ (m + 1) - f ≤ j) (hjf : j < f)
    (hr : Reaches (2 ^ (m + k)) f j x) : x < f * 2 ^ k - 2 ^ (m + k) := by
  have hhi := h.upper
  have hpow := Nat.pow_succ (n := 2) (m := m)
  rw [h.reaches_from_iff hj] at hr
  rw [lt_boundary_iff (h.bits_pos hj hjf)]
  omega

theorem lt_states_of_reaches {j x : Nat} (hjf : j < f) (hr : Reaches (2 ^ (m + k)) f j x) : x < 2 ^ (m + k) := by
  rcases lt_or_ge j (2 ^ (m + 1) - f) with hj | hj
  · rw [h.reaches_below_iff hj] at hr
    rw [lt_states_iff]
    omega
  · exact (h.lt_boundary_of_reaches_from hj hjf hr).trans_le h.boundary_le_states

theorem below_iff_of_reaches {j x : Nat} (hjf : j < f) (hr : Reaches (2 ^ (m + k)) f j x) :
    j < 2 ^ (m + 1) - f ↔ f * 2 ^ k - 2 ^ (m + k) ≤ x := by
  refine ⟨fun hj => h.boundary_le_of_reaches_below hj hr, fun hx => ?_⟩
  by_contra hj
  exact (h.lt_boundary_of_reaches_from (not_lt.1 hj) hjf hr).not_ge hx

/-- No two occurrences of a symbol reach the same state: they lie on the same side of the boundary, and there the quotient
gives the occurrence. -/
theorem eq_of_reaches {i j x : Nat} (hif : i < f) (hjf : j < f) (hi : Reaches (2 ^ (m + k)) f i x)
    (hj : Reaches (2 ^ (m + k)) f j x) : i = j := by
  have hside := (h.below_iff_of_reaches hif hi).trans (h.below_iff_of_reaches hjf hj).symm
  by_cases hbelow : j < 2 ^ (m + 1) - f
  · rw [h.reaches_below_iff (hside.2 hbelow)] at hi
    rw [h.reaches_below_iff hbelow] at hj
    omega
  · rw [h.reaches_from_iff (not_lt.1 (mt hside.1 hbelow))] at hi
    rw [h.reaches_from_iff (not_lt.1 hbelow)] at hj
    omega

/-- Every state is reached: its quotient on its side of the boundary names the occurrence. -/
theorem exists_reaches {x : Nat} (hx : x < 2 ^ (m + k)) : ∃ j < f, Reaches (2 ^ (m + k)) f j x := by
  have hlo := h.lower
  have hhi := h.upper
  have hpow := Nat.pow_succ (n := 2) (m := m)
  rcases le_or_gt (f * 2 ^ k - 2 ^ (m + k)) x with hbound | hbound
  · rw [boundary_le_iff] at hbound
    rw [lt_states_iff] at hx
    exact ⟨(x + 2 ^ (m + k)) / 2 ^ k - f, by omega, (h.reaches_below_iff (by omega)).2 (by omega)⟩
  · rw [lt_boundary_iff (h.bits_pos_of_lt_boundary hbound)] at hbound
    exact ⟨2 ^ (m + 1) - f + x / 2 ^ (k - 1), by omega,
      (h.reaches_from_iff (Nat.le_add_right ..)).2 (Nat.add_sub_cancel_left ..).symm⟩

end FreqOctave

/-! ## The layout of a table -/

@[simp] theorem freqSum_cons (f : Nat) (fs : List Nat) : freqSum (f :: fs) = f + freqSum fs := rfl

/-- The entries of symbol `i`, one per occurrence (R183). -/
def symbolEntries {α : Type} (n : Nat) (mk : Nat → Nat → Nat → α) (i f : Nat) : List α :=
  (List.range f).map fun j => mk i (occurrence n f j).1 (occurrence n f j).2

section Entries
variable {α : Type} {n : Nat} {mk : Nat → Nat → Nat → α}

@[simp] theorem symbolEntries_length (i f : Nat) : (symbolEntries n mk i f).length = f := by simp [symbolEntries]

theorem symbolEntries_getElem? {i f j : Nat} (hj : j < f) :
    (symbolEntries n mk i f)[j]? = some (mk i (occurrence n f j).1 (occurrence n f j).2) := by
  simp [symbolEntries, hj]

/-- While the running sum stays within the states, the entries of the next symbol follow; a symbol of frequency 0 has none. -/
theorem fseEntries_cons {f cum : Nat} (fs : List Nat) (i : Nat) (h : cum + f ≤ n) :
    fseEntries n mk (f :: fs) i cum =
      (symbolEntries n mk i f ++ (fseEntries n mk fs (i + 1) (cum + f)).1, (fseEntries n mk fs (i + 1) (cum + f)).2) := by
  rcases Nat.eq_zero_or_pos f with rfl | hf
  · simp [fseEntries, symbolEntries]
  · simp only [fseEntries, if_neg hf.ne', if_neg h.not_gt, symbolEntries]

theorem fseEntries_overflow_iff (fs : List Nat) (i : Nat) {cum : Nat} (h : cum ≤ n) :
    (fseEntries n mk fs i cum).2 = true ↔ n < cum + freqSum fs := by
  induction fs generalizing i cum with
  | nil => simpa [fseEntries, freqSum] using h
  | cons f fs ih =>
    rw [freqSum_cons, ← Nat.add_assoc]
    by_cases hf : cum + f ≤ n
    · rw [fseEntries_cons fs i hf]
      exact ih (i + 1) hf
    · have hpos : f ≠ 0 := by omega
      have hover : n < cum + f + freqSum fs := by omega
      simp [fseEntries, hpos, not_le.1 hf, hover]

theorem fseEntries_length (fs : List Nat) (i : Nat) {cum : Nat} (h : cum + freqSum fs ≤ n) :
    (fseEntries n mk fs i cum).1.length = freqSum fs := by
  induction fs generalizing i cum with
  | nil => rfl
  | cons f fs ih =>
    rw [freqSum_cons, ← Nat.add_assoc] at h
    rw [fseEntries_cons fs i (by omega), List.length_append, symbolEntries_length, freqSum_cons, ih (i + 1) h]

/-- Occurrence `j` of the `i`-th symbol stands at the sum of the counts before it, plus `j` (R183). -/
theorem fseEntries_getElem? {fs : List Nat} {i f j cum : Nat} (first : Nat) (h : cum + freqSum fs ≤ n)
    (hi : fs[i]? = some f) (hj : j < f) :
    (fseEntries n mk fs first cum).1[freqSum (fs.take i) + j]? =
      some (mk (first + i) (occurrence n f j).1 (occurrence n f j).2) := by
  induction fs generalizing i first cum with
  | nil => simp at hi
  | cons g fs ih =>
    rw [freqSum_cons, ← Nat.add_assoc] at h
    rw [fseEntries_cons fs first (by omega)]
    cases i with
    | zero =>
      obtain rfl : g = f := by simpa using hi
      simpa [freqSum, List.getElem?_append_left, hj] using symbolEntries_getElem? hj
    | succ i =>
      have hrest := ih (first + 1) h (by simpa using hi)
      rw [List.take_succ_cons, freqSum_cons, List.getElem?_append_right (by simp; omega)]
      rw [symbolEntries_length, show g + freqSum (fs.take i) + j - g = freqSum (fs.take i) + j by omega, hrest]
      rw [Nat.add_assoc, Nat.add_comm 1]

end Entries

section Pad
variable {α : Type} {n p : Nat} {u : α} {es : List α}

theorem padTable_length (h : es.length ≤ n) : (padTable n u es).length = n := by
  simp [padTable, h]

theorem padTable_getElem?_of_some {e : α} (h : es[p]? = some e) : (padTable n u es)[p]? = some e := by
  obtain ⟨hp, rfl⟩ := List.getElem?_eq_some_iff.1 h
  simp [padTable, List.getElem?_append_left hp]

theorem padTable_getElem?_above (hes : es.length ≤ p) (hp : p < n) : (padTable n u es)[p]? = some u := by
  rw [padTable, List.getElem?_append_right hes, List.getElem?_replicate, if_pos (by omega)]

end Pad

/-- A built table: `n` slots, symbol `i`'s occurrences from the sum of the counts before it, and unassigned slots above the
whole sum (R183, R184). Both builders lay out such a table. -/
structure LaidOut {α : Type} (n : Nat) (mk : Nat → Nat → Nat → α) (u : α) (fs : List Nat) (b : List α × Bool) : Prop where
  noOverflow : b.2 = false
  length : b.1.length = n
  slot : ∀ i f j, fs[i]? = some f → j < f →
    b.1[freqSum (fs.take i) + j]? = some (mk i (occurrence n f j).1 (occurrence n f j).2)
  above : ∀ p, freqSum fs ≤ p → p < n → b.1[p]? = some u

theorem laidOut_padTable {α : Type} {n : Nat} {fs : List Nat} (mk : Nat → Nat → Nat → α) (u : α) (h : freqSum fs ≤ n) :
    LaidOut n mk u fs (padTable n u (fseEntries n mk fs 0 0).1, (fseEntries n mk fs 0 0).2) := by
  have hsum : 0 + freqSum fs ≤ n := by omega
  have hlen := fseEntries_length (mk := mk) fs 0 hsum
  refine ⟨?_, padTable_length (hlen.trans_le h), fun i f j hi hj => ?_, fun p hp hpn => ?_⟩
  · rw [← Bool.not_eq_true, fseEntries_overflow_iff fs 0 n.zero_le]
    exact hsum.not_gt
  · apply padTable_getElem?_of_some
    rw [fseEntries_getElem? 0 hsum hi hj, Nat.zero_add]
  · exact padTable_getElem?_above (hlen.trans_le hp) hpn

theorem buildSym_laidOut {n : Nat} {fs : List Nat} (h : freqSum fs ≤ n) :
    LaidOut n mkSym .unassigned fs (buildSym n fs) :=
  laidOut_padTable mkSym _ h

theorem buildVal_laidOut {n : Nat} {fs : List Nat} (extra base : List Nat) (h : freqSum fs ≤ n) :
    LaidOut n (mkVal extra base) .unassigned fs (buildVal n extra base fs) :=
  laidOut_padTable (mkVal extra base) _ h

end Sys2Proof.Machine

namespace Sys2Proof.Proofs.Fse
open Sys2Proof.Machine

/-! ## The statements of the family -/

/-- Settles O28: `clz32` counts from the octave of `f`, and `j0` is what is left of that octave. -/
theorem occurrenceRanges : Obligations.OccurrenceRanges := by
  unfold Obligations.OccurrenceRanges
  intro n m f hn hlo hhi hfits
  have hmn : m ≤ n := (Nat.pow_le_pow_iff_right (by decide)).1 (hlo.trans hfits)
  obtain ⟨k, rfl⟩ := Nat.exists_eq_add_of_le hmn
  have h : FreqOctave m k f := ⟨hn, hlo, hhi, hfits⟩
  have hpow := Nat.pow_succ (n := 2) (m := m)
  rw [Nat.add_sub_cancel_left]
  refine ⟨hmn, h.clz32_sub, ?_, by rw [doubled_shiftRight], by omega, by omega, fun j hj => ?_, h.bits_eq_zero_iff⟩
  · rw [clz32_two_pow, clz32_of_octave hlo hhi]
    omega
  · have hbits : (occurrence (2 ^ (m + k)) f j).1 = if j < 2 ^ (m + 1) - f then k else k - 1 := h.occurrence_bits j
    have hone : m = 0 → f = 1 := by
      rintro rfl
      omega
    have hle : (occurrence (2 ^ (m + k)) f j).1 ≤ k := by
      rw [hbits]
      split <;> omega
    refine ⟨hbits, fun hk => ?_, fun hf => ?_, by omega, fun hpos hfull => hone ?_⟩
    · by_contra hfrom
      have := h.bits_pos (not_lt.1 hfrom) hj
      omega
    · rw [hbits, if_pos (by omega)]
    · omega

/-- Settles O29: the two formulas of R181 meet at the boundary `f * 2^k - N`, and a division finds the occurrence that
reaches a state. -/
theorem occurrencesTileTheStates : Obligations.OccurrencesTileTheStates := by
  unfold Obligations.OccurrencesTileTheStates
  intro n f k j0 hn hf hfits hk hj0
  obtain ⟨m, hlo, hhi⟩ : ∃ m, 2 ^ m ≤ f ∧ f < 2 ^ (m + 1) :=
    ⟨f.log2, Nat.log2_self_le (by omega), Nat.lt_log2_self⟩
  have hmn : m ≤ n := (Nat.pow_le_pow_iff_right (by decide)).1 (hlo.trans hfits)
  obtain ⟨c, rfl⟩ := Nat.exists_eq_add_of_le hmn
  have h : FreqOctave m c f := ⟨hn, hlo, hhi, hfits⟩
  obtain rfl : k = c := hk.trans h.clz32_sub
  rw [doubled_shiftRight] at hj0
  subst hj0
  refine ⟨fun j hj => ⟨fun hbelow => ?_, fun hfrom => ?_, fun b hb => ?_⟩, fun x hx => ?_⟩
  · exact ⟨h.occurrence_below hbelow, h.states_le_above j⟩
  · exact ⟨h.occurrence_from hfrom, h.bits_pos hfrom hj⟩
  · exact h.lt_states_of_reaches hj ⟨Nat.le_add_right _ _, Nat.add_lt_add_left hb _⟩
  · obtain ⟨j, hj, hreach⟩ := h.exists_reaches hx
    exact ⟨j, hj, hreach, h.below_iff_of_reaches hj hreach, fun i hi hle hlt => h.eq_of_reaches hi hj ⟨hle, hlt⟩ hreach⟩

/-- Settles O30: both builders pad the entries that `fseEntries` lays out symbol by symbol. -/
theorem tableSlotsFollowTheHistogram : Obligations.TableSlotsFollowTheHistogram := by
  unfold Obligations.TableSlotsFollowTheHistogram
  intro n fs extra base h
  have hsym := buildSym_laidOut h
  have hval := buildVal_laidOut extra base h
  refine ⟨hsym.noOverflow, hval.noOverflow, hsym.length, hval.length, fun i f j hi hj => ?_, fun p hp hpn => ?_⟩
  · exact ⟨hsym.slot i f j hi hj, hval.slot i f j hi hj⟩
  · rw [hsym.above p hp hpn, hval.above p hp hpn]
    exact ⟨rfl, rfl⟩

end Sys2Proof.Proofs.Fse

/-! PROOFS. The block headers (42_header.md): where the fields of a header lie in SRC, the step that reads a V1 header, and the
bits of the header check; from that the statements of the family. -/

namespace Sys2Proof.Machine

/-! ## Slices of a run of SRC bytes -/

/-- A run of SRC bytes within a longer run. -/
theorem srcBytes_slice {s : State} {n p off k : Nat} {bs : List Byte} (h : srcBytes s n p = some bs) (hk : off + k ≤ n) :
    srcBytes s k (p + off) = some ((bs.drop off).take k) := by
  have hin : n = 0 ∨ p + n ≤ s.srcLen := (srcBytes_isSome_iff s n p).1 (by simp [h])
  obtain ⟨cs, hcs⟩ := Option.isSome_iff_exists.1 ((srcBytes_isSome_iff s k (p + off)).2 (by omega))
  rw [hcs, Option.some_inj]
  refine List.ext_getElem? fun i => ?_
  by_cases hi : i < k
  · rw [srcBytes_get hcs i hi, List.getElem?_take_of_lt hi, List.getElem?_drop, srcBytes_get h _ (by omega), Nat.add_assoc]
  · have hlen := srcBytes_length hcs
    rw [List.getElem?_eq_none (by omega), List.getElem?_eq_none (by rw [List.length_take]; omega)]

/-- A field of a run of SRC bytes is what SRC reads as at its offset. -/
theorem srcRead_eq_leAt {s : State} {n p off k : Nat} {bs : List Byte} (h : srcBytes s n p = some bs) (hk : off + k ≤ n) :
    srcRead s (p + off) k = some (leAt bs off k) := by
  rw [srcRead, srcBytes_slice h hk, Option.map_some, leAt]

theorem leAt_slice {bs : List Byte} {from_ len off n : Nat} (h : off + n ≤ len) :
    leAt ((bs.drop from_).take len) off n = leAt bs (from_ + off) n := by
  rw [leAt, List.drop_take, List.drop_drop, List.take_take, min_eq_left (by omega), leAt]

/-! ## The V1 frequency list -/

@[simp] theorem u16s_length : ∀ bs : List Byte, (u16s bs).length = bs.length / 2
  | [] => rfl
  | [_] => by simp [u16s]
  | _ :: _ :: rest => by
    simp only [u16s, List.length_cons, u16s_length rest]
    omega

theorem u16s_getElem? : ∀ {bs : List Byte} {k : Nat}, 2 * k + 2 ≤ bs.length → (u16s bs)[k]? = some (leAt bs (2 * k) 2)
  | a :: b :: rest, 0, _ => by simp [u16s, leAt, leNat]
  | a :: b :: rest, k + 1, h => by
    have hrest : 2 * k + 2 ≤ rest.length := by
      rw [List.length_cons, List.length_cons] at h
      omega
    rw [u16s, List.getElem?_cons_succ, u16s_getElem? hrest, leAt, leAt, Nat.mul_succ, List.drop_succ_cons,
      List.drop_succ_cons]

/-- The 360 counts of a V1 header (30_encoding.md R105). -/
theorem decodeV1_freqs_length {bs : List Byte} (h : bs.length = 770) : (decodeV1 bs).freqs.length = 360 := by
  simp [decodeV1, h]

theorem decodeV1_freqs_getElem? {bs : List Byte} {k : Nat} (h : bs.length = 770) (hk : k < 360) :
    (decodeV1 bs).freqs[k]? = some (leAt bs (50 + 2 * k) 2) := by
  have hslice : ((bs.drop 50).take 720).length = 720 := by simp [h]
  rw [decodeV1, u16s_getElem? (by omega), leAt_slice (by omega)]

/-- The table of `n` symbols that starts at count `first` of a V1 header in SRC (30_encoding.md R106). -/
theorem v1_freqTable {s : State} {bs : List Byte} {p first n : Nat} (h : srcBytes s 770 p = some bs)
    (hn : first + n ≤ 360) :
    (((decodeV1 bs).freqs.drop first).take n).length = n ∧
      ∀ k < n, srcRead s (p + (50 + 2 * first) + 2 * k) 2 = (((decodeV1 bs).freqs.drop first).take n)[k]? := by
  have hlen := srcBytes_length h
  constructor
  · rw [List.length_take, List.length_drop, decodeV1_freqs_length hlen]
    omega
  · intro k hk
    rw [List.getElem?_take_of_lt hk, List.getElem?_drop, decodeV1_freqs_getElem? hlen (by omega), Nat.add_assoc p,
      srcRead_eq_leAt h (by omega), Nat.add_assoc 50, Nat.mul_add]

/-! ## The step that reads a V1 header -/

theorem exec_bvx1 {s : State} (h : V1Header) (hall : 770 ≤ srcAvail s) :
    exec (.bvx1 h) s = .next { s with magic := magicV1, hdr := headerOfV1 h, phase := .setup } :=
  if_neg hall.not_gt

theorem exec_bvx1_short {s : State} (h : V1Header) (hshort : srcAvail s < 770) :
    exec (.bvx1 h) s = .next { s with status := .srcEmpty, phase := .ready } :=
  if_pos hshort

/-- A running core at a block start executes the header it decodes (45_dispatcher.md R381). -/
theorem step_of_decodeBlock {s : State} {bs : List Byte} {i : Instr} (hrun : s.status = .running) (hready : s.phase = .ready)
    (hblk : s.blk = .none) (hbs : blockBytes s = some bs) (hdec : decodeBlock bs = .instr i) : step s = exec i s := by
  have hfetch : fetch s = .instr i := by simp [fetch, fetchReady, fetchDecoded, decode, hready, hblk, hbs, hdec]
  rw [step, if_pos hrun, runStep, hfetch]

theorem decodeBlock_v1 {bs : List Byte} (hlen : bs.length = 770) (hmagic : leAt bs 0 4 = magicV1) :
    decodeBlock bs = .instr (.bvx1 (decodeV1 bs)) := by
  simp [decodeBlock, hlen, hmagic, magicV1, magicEos, magicRaw, magicLzvn, v1HeaderLen]

/-- Where 770 bytes begin with the V1 magic, the step fills the record from them. -/
theorem step_v1Header {s : State} (hrun : s.status = .running) (hready : s.phase = .ready) (hblk : s.blk = .none)
    (hall : 770 ≤ srcAvail s) (hmagic : srcRead s s.srcPos 4 = some magicV1) :
    ∃ bs, srcBytes s 770 s.srcPos = some bs ∧
      step s = .next { s with magic := magicV1, hdr := headerOfV1 (decodeV1 bs), phase := .setup } := by
  have hin : s.srcPos + 770 ≤ s.srcLen := by
    rw [srcAvail] at hall
    omega
  obtain ⟨bs, hbs⟩ := Option.isSome_iff_exists.1 ((srcBytes_isSome_iff s 770 s.srcPos).2 (.inr hin))
  have hblock : blockBytes s = some bs := by rwa [blockBytes, fetchLen, min_eq_left hall]
  have hread : srcRead s s.srcPos 4 = some (leAt bs 0 4) := srcRead_eq_leAt (off := 0) hbs (by omega)
  have hdec := decodeBlock_v1 (srcBytes_length hbs) (Option.some_inj.1 (hread.symm.trans hmagic))
  exact ⟨bs, hbs, (step_of_decodeBlock hrun hready hblk hblock hdec).trans (exec_bvx1 _ hall)⟩

/-! ## The header check -/

theorem packBits_testBit (bs : List Bool) (i : Nat) : (packBits bs).testBit i = bs.getD i false := by
  induction bs generalizing i with
  | nil => simp [packBits]
  | cons b bs ih =>
    cases i with
    | zero => cases b <;> simp [packBits, Nat.testBit_zero, Nat.add_mod]
    | succ i =>
      have hhalf : (b.toNat + 2 * packBits bs) / 2 = packBits bs := by
        have := b.toNat_lt
        omega
      rw [packBits, Nat.testBit_succ, hhalf, ih, List.getD_cons_succ]

theorem hdrCheck_getLsbD {s : State} {i : Nat} (hi : i < 14) :
    (hdrCheck s).getLsbD i = (hdrFailBits s.cfg s.magic s.hdr).getD i false := by
  rw [hdrCheck, BitVec.getLsbD_ofNat, packBits_testBit, decide_eq_true hi, Bool.true_and]

/-- A bit of `hdr_fail` is set exactly when its condition holds. -/
theorem hdrCheck_getLsbD_iff {s : State} {i : Nat} {c : Prop} [Decidable c] (hi : i < 14)
    (hbit : (hdrFailBits s.cfg s.magic s.hdr).getD i false = decide c) : (hdrCheck s).getLsbD i = true ↔ c := by
  rw [hdrCheck_getLsbD hi, hbit, decide_eq_true_iff]

theorem hdrFailBits_lane {cfg : Config} {magic k : Nat} {h : Header} (hk : k < 4) :
    (hdrFailBits cfg magic h).getD (3 + k) false = decide (cfg.nLit ≤ lane h.litState k) := by
  interval_cases k <;> rfl

theorem step_setup {s : State} (hrun : s.status = .running) (hsetup : s.phase = .setup) : step s = (setupStep s).out := by
  have hfetch : fetch s = .action .runSetup := by rw [fetch, hsetup]
  rw [step, if_pos hrun, runStep, hfetch]
  rfl

theorem setupStep_hdrInvalid {s : State} (h : hdrCheck s ≠ 0#14) :
    setupStep s = .ended (raiseMalformed .hdrInvalid { s with hdrFail := hdrCheck s }) := by
  have hval : validate s = .ended (raiseMalformed .hdrInvalid { s with hdrFail := hdrCheck s }) := by
    simp only [validate, if_pos h]
  rw [setupStep, hval, Res.bind_ended]

end Sys2Proof.Machine

namespace Sys2Proof.Proofs.Header
open Sys2Proof.Machine

/-! ## The statements of the family -/

/-- Settles O11: the step decodes 770 bytes of SRC, and each field of the record is a slice of them. -/
theorem v1HeaderStartsASetup : Obligations.V1HeaderStartsASetup := by
  unfold Obligations.V1HeaderStartsASetup
  refine ⟨fun s h => ⟨exec_bvx1 h, exec_bvx1_short h⟩, fun s hrun hready hblk hall hmagic => ?_⟩
  obtain ⟨bs, hbs, hstep⟩ := step_v1Header hrun hready hblk hall hmagic
  have word (off k : Nat) (hk : off + k ≤ 770) : srcRead s (s.srcPos + off) k = some (leAt bs off k) :=
    srcRead_eq_leAt hbs hk
  have signed (off : Nat) (hk : off + 4 ≤ 770) :
      (srcRead s (s.srcPos + off) 4).map sext32 = some (sext32 (leAt bs off 4)) := by
    rw [word off 4 hk, Option.map_some]
  have lanes : ∀ k < 4, srcRead s (s.srcPos + 32 + 2 * k) 2 = some (lane (lanesAt bs 32) k) := by
    intro k hk
    interval_cases k <;> exact word _ 2 (by decide)
  obtain ⟨hL, hLread⟩ := v1_freqTable (first := 0) (n := 20) hbs (by decide)
  obtain ⟨hM, hMread⟩ := v1_freqTable (first := 20) (n := 20) hbs (by decide)
  obtain ⟨hD, hDread⟩ := v1_freqTable (first := 40) (n := 64) hbs (by decide)
  obtain ⟨hLit, hLitRead⟩ := v1_freqTable (first := 104) (n := 256) hbs (by decide)
  exact ⟨_, hstep, word 4 4 (by decide), word 8 4 (by decide), word 12 4 (by decide), word 16 4 (by decide),
    word 20 4 (by decide), word 24 4 (by decide), signed 28 (by decide), lanes, signed 40 (by decide),
    word 44 2 (by decide), word 46 2 (by decide), word 48 2 (by decide),
    hL, hLread, hM, hMread, hD, hDread, hLit, hLitRead, rfl⟩

/-- Settles O38: bit `i` of the packed vector is flag `i` of the list, and the setup begins with the check. -/
theorem headerCheck : Obligations.HeaderCheck := by
  unfold Obligations.HeaderCheck
  intro s
  have bit {i : Nat} {c : Prop} [Decidable c] := hdrCheck_getLsbD_iff (s := s) (i := i) (c := c)
  refine ⟨bit (by decide) rfl, bit (by decide) rfl, bit (by decide) rfl, fun k hk => bit (by omega) (hdrFailBits_lane hk),
    bit (by decide) rfl, bit (by decide) rfl, bit (by decide) rfl, bit (by decide) rfl, bit (by decide) rfl,
    bit (by decide) rfl, bit (by decide) rfl, fun hrun hsetup hfail => ?_⟩
  rw [step_setup hrun hsetup, setupStep_hdrInvalid hfail, Res.out_ended, raiseMalformed]

end Sys2Proof.Proofs.Header

/-! PROOFS. The triplet step of an LZFSE block (43_lzfse_block.md), and the stops with DST_FULL: which operations can stop so,
and what each kind of block then leaves pending; from that the statements of the family. -/

namespace Sys2Proof.Machine

/-! ## What a result leaves, whichever way it goes -/

section Yields
variable {α β : Type} {P P' : α → State → Prop} {Q : β → State → Prop} {E E' : State → Prop}

/-- The result goes on only with `P`, and ends the run only with `E`. -/
inductive Res.Yields (P : α → State → Prop) (E : State → Prop) : Res α → Prop
  | ok {a : α} {s : State} (h : P a s) : Yields P E (.ok a s)
  | ended {s : State} (h : E s) : Yields P E (.ended s)
  | fault {f : Fault} : Yields P E (.fault f)

theorem Res.Yields.of {r : Res α} (hok : ∀ a s, r = .ok a s → P a s) (hended : ∀ s, r = .ended s → E s) :
    r.Yields P E := by
  cases r with
  | ok a s => exact .ok (hok a s rfl)
  | ended s => exact .ended (hended s rfl)
  | fault f => exact .fault

theorem Res.Yields.mono {r : Res α} (h : r.Yields P E) (hP : ∀ a s, P a s → P' a s) (hE : ∀ s, E s → E' s) :
    r.Yields P' E' := by
  cases h with
  | ok h => exact .ok (hP _ _ h)
  | ended h => exact .ended (hE _ h)
  | fault => exact .fault

/-- The rule of sequencing. -/
theorem Res.Yields.bind {r : Res α} {k : α → State → Res β} (h : r.Yields P E)
    (hk : ∀ a s, P a s → (k a s).Yields Q E) : (r.bind k).Yields Q E := by
  cases h with
  | ok h => exact hk _ _ h
  | ended h => exact .ended h
  | fault => exact .fault

/-- The rule of branching. -/
theorem Res.Yields.ite {c : Prop} [Decidable c] {r r' : Res α} (hpos : c → r.Yields P E) (hneg : ¬ c → r'.Yields P E) :
    (if c then r else r').Yields P E := by
  split
  · next hc => exact hpos hc
  · next hc => exact hneg hc

/-- The next state of a step, if it has one, satisfies `P`. -/
def Leaves (P : State → Prop) : Host.Outcome State Fault Refusal → Prop
  | .next s => P s
  | _ => True

@[simp] theorem leaves_next {P : State → Prop} {s : State} : Leaves P (.next s) ↔ P s := .rfl

theorem Leaves.mono {P R : State → Prop} {o : Host.Outcome State Fault Refusal} (h : Leaves P o) (hPR : ∀ s, P s → R s) :
    Leaves R o := by
  cases o with
  | next s => exact hPR s h
  | fault f => trivial
  | refused r => trivial

theorem Leaves.ite {P : State → Prop} {c : Prop} [Decidable c] {o o' : Host.Outcome State Fault Refusal}
    (hpos : c → Leaves P o) (hneg : ¬ c → Leaves P o') : Leaves P (if c then o else o') := by
  split
  · next hc => exact hpos hc
  · next hc => exact hneg hc

theorem Res.Yields.leaves {R : State → Prop} {r : Res Unit} (h : r.Yields (fun _ => R) R) : Leaves R r.out := by
  cases h with
  | ok h => exact h
  | ended h => exact h
  | fault => trivial

end Yields

/-! ## Operations that never stop with DST_FULL -/

/-- The run has not stopped with DST_FULL. -/
def NotFull (s : State) : Prop := s.status ≠ .dstFull

theorem NotFull.congr {s t : State} (h : NotFull s) (hst : t.status = s.status) : NotFull t := by rwa [NotFull, hst]

theorem notFull_of_running {s : State} (hrun : s.status = .running) : NotFull s := by
  rw [NotFull, hrun]
  decide

@[simp] theorem notFull_stopRun {st : Status} {s : State} : NotFull (stopRun st s) ↔ st ≠ .dstFull := .rfl
@[simp] theorem notFull_raiseMalformed (c : Cause) (s : State) : NotFull (raiseMalformed c s) := by simp [NotFull]
@[simp] theorem notFull_setReader {w : ReaderId} {r : BitReader} {s : State} : NotFull (setReader w r s) ↔ NotFull s := by
  cases w <;> rfl

/-- The operation does not stop the run with DST_FULL. -/
abbrev Res.NeverFull {α : Type} (r : Res α) : Prop := r.Yields (fun _ => NotFull) NotFull

section NeverFull
variable {s : State} (h : NotFull s)
include h

theorem readerCheck_neverFull (w : ReaderId) : (readerCheck w s).NeverFull := by
  by_cases hfull : ReaderFull (reader w s)
  · rw [readerCheck_of_full hfull]
    exact .ok h
  · rw [readerCheck_of_not_full hfull]
    exact .ended (notFull_raiseMalformed _ _)

theorem readerInit_neverFull (w : ReaderId) (n : Int) (e lo : Nat) : (readerInit w n e lo s).NeverFull := by
  rw [readerInit]
  refine .ite (fun _ => .ended (notFull_raiseMalformed _ _)) fun _ => ?_
  split
  · exact .fault
  · exact readerCheck_neverFull (by simpa using h) w

theorem flush_neverFull (w : ReaderId) : (flush w s).NeverFull := by
  refine .of (fun _ t hok => ?_) fun t hended => ?_
  · obtain ⟨-, v, -, rfl⟩ := flush_ok hok
    simpa using h
  · obtain ⟨rfl, -⟩ := flush_ended hended
    simp

theorem pull_neverFull (w : ReaderId) (n : Nat) : (pull w n s).NeverFull := by
  refine .of (fun b t hok => ?_) fun t hended => (pull_ne_ended w n s t hended).elim
  obtain ⟨-, -, rfl⟩ := pull_eq_ok.1 hok
  simpa using h

theorem decodeSym_neverFull (st : Nat) : (decodeSym st s).NeverFull := by
  rw [decodeSym]
  exact .ite (fun _ => .fault) fun _ => (pull_neverFull h _ _).bind fun _ _ h1 => .ok h1

theorem decodeVal_neverFull (t : List ValEntry) (st : Nat) : (decodeVal t st s).NeverFull := by
  rw [decodeVal]
  exact .ite (fun _ => .fault) fun _ => (pull_neverFull h _ _).bind fun _ _ h1 => .ok h1

theorem litWrite_neverFull (i : Nat) (v : Byte) : (litWrite i v s).NeverFull := by
  rw [litWrite]
  exact .ite (fun _ => .ok h) fun _ => .fault

theorem litSymbol_neverFull : (litSymbol s).NeverFull := by
  have hflush : (if s.litIdx % 4 = 0 then flush .litrd s else .ok () s).NeverFull :=
    .ite (fun _ => flush_neverFull h .litrd) fun _ => .ok h
  rw [litSymbol]
  exact hflush.bind fun _ _ h1 => (decodeSym_neverFull h1 _).bind fun _ _ h2 =>
    (litWrite_neverFull h2 _ _).bind fun _ _ h3 => .ok h3

theorem literalLength_neverFull : (literalLength s).NeverFull := by
  rw [literalLength]
  exact (flush_neverFull h .lmd).bind fun _ _ h1 => (decodeVal_neverFull h1 _ _).bind fun _ _ h2 =>
    .ite (fun _ => .ended (notFull_raiseMalformed _ _)) fun _ => .ok (h2.congr rfl)

theorem matchLength_neverFull : (matchLength s).NeverFull := by
  rw [matchLength]
  exact (flush_neverFull h .lmd).bind fun _ _ h1 => (decodeVal_neverFull h1 _ _).bind fun _ _ h2 => .ok h2

theorem matchDistance_neverFull : (matchDistance s).NeverFull := by
  rw [matchDistance]
  exact (flush_neverFull h .lmd).bind fun _ _ h1 => (decodeVal_neverFull h1 _ _).bind fun _ _ h2 => .ok h2

theorem freqsDone_neverFull : (freqsDone s).NeverFull := by
  rw [freqsDone]
  exact .ite (fun _ => .ended (notFull_raiseMalformed _ _)) fun _ => .ok h

theorem freqCount_neverFull (n v : Nat) : (freqCount n v s).NeverFull := by
  rw [freqCount]
  cases freqWindow s with
  | none => exact .fault
  | some r =>
    exact .ite (fun _ => .ended (notFull_raiseMalformed _ _)) fun _ => .ite (fun _ => .ok (h.congr rfl)) fun _ =>
      freqsDone_neverFull (h.congr rfl)

theorem validate_neverFull : (validate s).NeverFull := by
  rw [validate]
  exact .ite (fun _ => .ended (notFull_raiseMalformed _ _)) fun _ => .ok (h.congr rfl)

theorem bodyCheck_neverFull : (bodyCheck s).NeverFull := by
  rw [bodyCheck]
  exact .ite (fun _ => .ended (by simp)) fun _ => .ok h

theorem afterBuild_neverFull (overflow : Bool) : (afterBuild overflow s).NeverFull := by
  rw [afterBuild]
  exact .ite (fun _ => .ended (notFull_raiseMalformed _ _)) fun _ => .ok h

theorem buildTables_neverFull : (buildTables s).NeverFull := by
  rw [buildTables]
  refine (afterBuild_neverFull ?_ _).bind fun _ s1 h1 => (afterBuild_neverFull ?_ _).bind fun _ s2 h2 =>
    (afterBuild_neverFull ?_ _).bind fun _ s3 h3 => afterBuild_neverFull ?_ _
  · exact h.congr rfl
  · exact h1.congr rfl
  · exact h2.congr rfl
  · exact h3.congr rfl

theorem litInit_neverFull : (litInit s).NeverFull := by
  rw [litInit]
  refine (readerInit_neverFull ?_ _ _ _ _).bind fun _ _ h1 => .ok h1
  exact h.congr rfl

theorem setupStep_neverFull : (setupStep s).NeverFull := by
  rw [setupStep]
  refine (validate_neverFull h).bind fun _ _ h1 => (bodyCheck_neverFull h1).bind fun _ _ h2 => ?_
  exact (buildTables_neverFull h2).bind fun _ _ h3 => litInit_neverFull h3

theorem lmdInit_neverFull : (lmdInit s).NeverFull := by
  rw [lmdInit]
  exact (readerInit_neverFull h _ _ _ _).bind fun _ _ h1 => .ok h1

omit h in
theorem execBvxEos_notFull : Leaves NotFull (execBvxEos s) := by
  rw [execBvxEos]
  exact Leaves.ite (fun _ => by simp) fun _ => by simp

theorem execBvxRaw_notFull (n : Nat) : Leaves NotFull (execBvxRaw n s) := by
  rw [execBvxRaw]
  exact Leaves.ite (fun _ => by simp) fun _ => h.congr rfl

theorem execBvxLzvn_notFull (n p : Nat) : Leaves NotFull (execBvxLzvn n p s) := by
  rw [execBvxLzvn]
  exact Leaves.ite (fun _ => by simp) fun _ => h.congr rfl

theorem execBvx1_notFull (hdr : V1Header) : Leaves NotFull (execBvx1 hdr s) := by
  rw [execBvx1]
  exact Leaves.ite (fun _ => by simp) fun _ => h.congr rfl

theorem execBvx2_notFull (hdr : V2Header) : Leaves NotFull (execBvx2 hdr s) := by
  rw [execBvx2]
  refine Leaves.ite (fun _ => by simp) fun _ => Leaves.ite (fun _ => by simp) fun _ => Leaves.ite (fun _ => by simp) fun _ =>
    Leaves.ite (fun _ => ?_) fun _ => ?_
  · exact h.congr rfl
  · exact h.congr rfl

/-- No instruction but an LZVN opcode stops the run with DST_FULL. -/
theorem exec_notFull {i : Instr} (hctx : i.ctx ≠ .lzvn) : Leaves NotFull (exec i s) := by
  cases i with
  | bvxEos => exact execBvxEos_notFull
  | bvxRaw n => exact execBvxRaw_notFull h n
  | bvxLzvn n p => exact execBvxLzvn_notFull h n p
  | bvx1 hdr => exact execBvx1_notFull h hdr
  | bvx2 hdr => exact execBvx2_notFull h hdr
  | f2 v => exact (freqCount_neverFull h 2 v).leaves
  | f3 v => exact (freqCount_neverFull h 3 v).leaves
  | f5 v => exact (freqCount_neverFull h 5 v).leaves
  | f8 v => exact (freqCount_neverFull h 8 v).leaves
  | f14 v => exact (freqCount_neverFull h 14 v).leaves
  | litSym => exact (litSymbol_neverFull h).leaves
  | lVal => exact (literalLength_neverFull h).leaves
  | mVal => exact (matchLength_neverFull h).leaves
  | dVal => exact (matchDistance_neverFull h).leaves
  | _ => exact (hctx rfl).elim

end NeverFull

/-! ## Stops with DST_FULL -/

/-- What holds of a state that has stopped with DST_FULL (43_lzfse_block.md R284, 44_lzvn.md R344, 60_exceptions.md R426). -/
def FullIsPending (t : State) : Prop :=
  t.status = .dstFull →
    t.dstPos = t.dstCap ∧ t.blk ≠ .none ∧ (t.blk = .raw → 1 ≤ t.rawRem) ∧ (t.blk = .lzvn → 1 ≤ t.vnL + t.vnM) ∧
    (t.blk = .v1 ∨ t.blk = .v2 → 1 ≤ t.L + t.M ∧ t.D ≠ none)

theorem NotFull.fullIsPending {t : State} (h : NotFull t) : FullIsPending t := fun hfull => (h hfull).elim

theorem stopRun_srcEmpty_fullIsPending (s : State) : FullIsPending (stopRun .srcEmpty s) := nofun

theorem raiseMalformed_fullIsPending (c : Cause) (s : State) : FullIsPending (raiseMalformed c s) := nofun

/-- The operation stops the run with DST_FULL only as it should. -/
abbrev Res.FullIfPending (r : Res Unit) : Prop := r.Yields (fun _ => NotFull) FullIsPending

theorem Res.FullIfPending.leaves {r : Res Unit} (h : r.FullIfPending) : Leaves FullIsPending r.out :=
  (h.mono (fun _ _ h1 => h1.fullIsPending) fun _ => id).leaves

theorem Res.NeverFull.fullIfPending {r : Res Unit} (h : r.NeverFull) : r.FullIfPending :=
  h.mono (fun _ _ => id) fun _ h1 => h1.fullIsPending

/-! ## Copies -/

theorem copyFromSrc_frame (n sp dp : Nat) (s : State) {E : State → Prop} :
    (copyFromSrc n sp dp s).Yields (fun _ => CopyFrame n dp s) E :=
  .of (fun _ _ hok => (copyFromSrc_ok hok).1) fun t hended => (copyFromSrc_ne_ended n sp dp s t hended).elim

theorem copyFromDst_frame (d n dp : Nat) (s : State) {E : State → Prop} :
    (copyFromDst d n dp s).Yields (fun _ => CopyFrame n dp s) E :=
  .of (fun _ _ hok => (copyFromDst_ok hok).1) fun t hended => (copyFromDst_ne_ended d n dp s t hended).elim

theorem copyFromLit_frame (n lp dp : Nat) (s : State) {E : State → Prop} :
    (copyFromLit n lp dp s).Yields (fun _ => CopyFrame n dp s) E :=
  .of (fun _ _ hok => (copyFromLit_ok hok).1) fun t hended => (copyFromLit_ne_ended n lp dp s t hended).elim

/-! ## RAW -/

theorem rawCopy_notFull {s : State} {E : State → Prop} (h : NotFull s) : (rawCopy s).Yields (fun _ => NotFull) E := by
  rw [rawCopy]
  refine (copyFromSrc_frame _ _ _ s).bind fun _ t ht => .ok ?_
  rw [ht.only_dst]
  exact h.congr rfl

theorem stepRaw_fullIfPending {s : State} (h : NotFull s) (hblk : s.blk = .raw) (hdst : s.dstPos ≤ s.dstCap) :
    (stepRaw s).FullIfPending := by
  rw [stepRaw]
  refine .ite (fun _ => .ok (h.congr rfl)) fun hrem => .ite (fun _ => .ended (stopRun_srcEmpty_fullIsPending s)) fun _ =>
    .ite (fun hroom => .ended fun _ => ?_) fun _ => rawCopy_notFull h
  simp only [stopRun_dstPos, stopRun_dstCap, stopRun_blk, stopRun_rawRem, hblk]
  exact ⟨by omega, by decide, fun _ => by omega, nofun, nofun⟩

/-! ## LZVN -/

/-- A running LZVN step may still produce `da` bytes: this room ends where the block does or at the end of DST
(44_lzvn.md R321). -/
structure LzvnRoom (da : Nat) (s : State) : Prop where
  running : s.status = .running
  blk : s.blk = .lzvn
  ends_at_dstCap : da < s.vnRawRem → s.dstPos + da = s.dstCap

theorem lzvnRoom_vnDA {s : State} (hrun : s.status = .running) (hblk : s.blk = .lzvn) (hdst : s.dstPos ≤ s.dstCap) :
    LzvnRoom (vnDA s) s := by
  refine ⟨hrun, hblk, fun hlt => ?_⟩
  rw [vnDA, vnDstLim] at hlt ⊢
  omega

/-- Producing `n` of the bytes leaves room for the others. -/
theorem LzvnRoom.take {da n : Nat} {s : State} (h : LzvnRoom da s) (hn : n ≤ da) (k : Nat) (mem : Memory) (j : Nat) :
    LzvnRoom (da - n) { vnTake k n s with dst := mem, draws := j } := by
  refine ⟨h.running, h.blk, fun hlt => ?_⟩
  have hends := h.ends_at_dstCap
  simp only [vnTake_vnRawRem, vnTake_dstPos, vnTake_dstCap] at hlt ⊢
  omega

theorem vnLiterals_room {off n da : Nat} {s : State} {E : State → Prop} (h : LzvnRoom da s) (hn : n ≤ da) :
    (vnLiterals off n s).Yields (fun _ => LzvnRoom (da - n)) E := by
  rw [vnLiterals]
  refine (copyFromSrc_frame _ _ _ s).bind fun _ t ht => .ok ?_
  rw [ht.only_dst]
  exact h.take hn _ _ _

theorem vnMatch_room {n da : Nat} {s : State} {E : State → Prop} (h : LzvnRoom da s) (hn : n ≤ da) :
    (vnMatch n s).Yields (fun _ => LzvnRoom (da - n)) E := by
  rw [vnMatch]
  refine (copyFromDst_frame _ _ _ s).bind fun _ t ht => .ok ?_
  rw [ht.only_dst]
  exact h.take hn _ _ _

/-- An LZVN step comes to its accounting with the stop reason `r`: the run is still on, and the reason is `DST` only when there
is no room left and a remainder is kept (44_lzvn.md R341 to R343). -/
def VnStopped (r : VnStop) (t : State) : Prop :=
  t.status = .running ∧ (r = .dst → LzvnRoom 0 t ∧ 1 ≤ t.vnL + t.vnM)

theorem vnStopped_of_ne_dst {r : VnStop} {t : State} (hrun : t.status = .running) (hr : r ≠ .dst) : VnStopped r t :=
  ⟨hrun, fun hdst => (hr hdst).elim⟩

theorem LzvnRoom.vnStopped_dst {da l m : Nat} {t : State} (h : LzvnRoom (da - da) t) (hlm : 1 ≤ l + m) :
    VnStopped .dst { t with vnL := l, vnM := m } := by
  rw [Nat.sub_self] at h
  exact ⟨h.running, fun _ => ⟨⟨h.running, h.blk, h.ends_at_dstCap⟩, hlm⟩⟩

theorem copyMatchOnly_vnStopped {m da : Nat} {s : State} {E : State → Prop} (h : LzvnRoom da s) :
    (copyMatchOnly m da s).Yields VnStopped E := by
  rw [copyMatchOnly]
  refine .ite (fun hfits => (vnMatch_room h hfits).bind fun _ t ht => ?_) fun hcut =>
    (vnMatch_room h le_rfl).bind fun _ t ht => ?_
  · exact .ok (vnStopped_of_ne_dst ht.running (by decide))
  · exact .ok (ht.vnStopped_dst (by omega))

theorem copyLiteral_vnStopped {opcLen l sa da : Nat} {s : State} {E : State → Prop} (h : LzvnRoom da s) :
    (copyLiteral opcLen l sa da s).Yields VnStopped E := by
  rw [copyLiteral]
  refine .ite (fun _ => .ok (vnStopped_of_ne_dst h.running (by decide))) fun _ =>
    .ite (fun hfits => (vnLiterals_room h hfits).bind fun _ t ht => ?_) fun hcut =>
      (vnLiterals_room h le_rfl).bind fun _ t ht => ?_
  · exact .ok (vnStopped_of_ne_dst ht.running (by decide))
  · exact .ok (ht.vnStopped_dst (by omega))

theorem copyLM_vnStopped {opcLen l m da : Nat} {s : State} {E : State → Prop} (h : LzvnRoom da s) :
    (copyLM opcLen l m da s).Yields VnStopped E := by
  rw [copyLM]
  refine .ite (fun hfits => (vnLiterals_room h hfits).bind fun _ t ht => ?_) fun hcut =>
    (vnLiterals_room h le_rfl).bind fun _ t ht => ?_
  · exact .ite (fun _ => .ok (vnStopped_of_ne_dst ht.running (by decide))) fun _ => copyMatchOnly_vnStopped ht
  · exact .ok (ht.vnStopped_dst (by omega))

/-- An opcode that is too short in the window stops with `SRC` before anything else (44_lzvn.md R323). -/
theorem windowCheck_vnStopped {short : Prop} [Decidable short] {s : State} {r : Res VnStop} {E : State → Prop}
    (hrun : s.status = .running) (hr : r.Yields VnStopped E) : (if short then .ok .src s else r).Yields VnStopped E :=
  .ite (fun _ => .ok (vnStopped_of_ne_dst hrun (by decide))) fun _ => hr

theorem matchOpcode_vnStopped {opcLen m : Nat} {s : State} {E : State → Prop} (h : LzvnRoom (vnDA s) s) :
    (matchOpcode opcLen m s).Yields VnStopped E := by
  rw [matchOpcode]
  exact windowCheck_vnStopped h.running <| .ite (fun _ => .ok (vnStopped_of_ne_dst h.running (by decide))) fun _ =>
    copyMatchOnly_vnStopped (h.take (Nat.zero_le _) opcLen s.dst s.draws)

theorem vnResume_vnStopped {s : State} {E : State → Prop} (h : LzvnRoom (vnDA s) s) : (vnResume s).Yields VnStopped E := by
  have h1 : LzvnRoom (vnDA s) { s with vnL := 0, vnM := 0 } := ⟨h.running, h.blk, h.ends_at_dstCap⟩
  rw [vnResume]
  exact .ite (fun _ => copyLiteral_vnStopped h1) fun _ =>
    .ite (fun _ => copyMatchOnly_vnStopped h1) fun _ => copyLM_vnStopped h1

theorem account_fullIfPending {r : VnStop} {t : State} (h : VnStopped r t) : (account r t).FullIfPending := by
  obtain ⟨hrun, hdst⟩ := h
  have hon := notFull_of_running hrun
  have raises (c : Cause) := raiseMalformed_fullIsPending c t
  cases r with
  | cont => exact .ok hon
  | src => exact .ite (fun _ => .ended (stopRun_srcEmpty_fullIsPending t)) fun _ => .ended (raises _)
  | dst =>
    obtain ⟨hroom, hpending⟩ := hdst rfl
    refine .ite (fun _ => .ended (raises _)) fun hraw => .ended fun _ => ?_
    simp only [stopRun_dstPos, stopRun_dstCap, stopRun_blk, stopRun_vnL, stopRun_vnM, hroom.blk]
    exact ⟨hroom.ends_at_dstCap (by omega), by decide, nofun, fun _ => hpending, nofun⟩
  | eos => exact .ite (fun _ => .ok (hon.congr rfl)) fun _ => .ended (raises _)
  | invalidOp => exact .ended (raises _)
  | invalidD => exact .ended (raises _)

theorem vnFinish_fullIfPending {r : Res VnStop} (h : r.Yields VnStopped FullIsPending) : (vnFinish r).FullIfPending :=
  h.bind fun _ _ ht => account_fullIfPending ht

/-- An LZVN opcode stops with DST_FULL only when DST is full and a remainder is kept. -/
theorem exec_lzvn_fullIsPending {s : State} {i : Instr} (hctx : i.ctx = .lzvn) (h : LzvnRoom (vnDA s) s) :
    Leaves FullIsPending (exec i s) := by
  have hrun := h.running
  have withD (d : Nat) : LzvnRoom (vnDA s) { s with vnD := d } := ⟨h.running, h.blk, h.ends_at_dstCap⟩
  cases i with
  | smlD l m d => exact (vnFinish_fullIfPending (windowCheck_vnStopped hrun (copyLM_vnStopped (withD d)))).leaves
  | medD l m d => exact (vnFinish_fullIfPending (windowCheck_vnStopped hrun (copyLM_vnStopped (withD d)))).leaves
  | lrgD l m d => exact (vnFinish_fullIfPending (windowCheck_vnStopped hrun (copyLM_vnStopped (withD d)))).leaves
  | preD l m => exact (vnFinish_fullIfPending (windowCheck_vnStopped hrun (copyLM_vnStopped h))).leaves
  | smlM m => exact (vnFinish_fullIfPending (matchOpcode_vnStopped h)).leaves
  | lrgM m => exact (vnFinish_fullIfPending (matchOpcode_vnStopped h)).leaves
  | smlL l => exact (vnFinish_fullIfPending (copyLiteral_vnStopped h)).leaves
  | lrgL l => exact (vnFinish_fullIfPending (windowCheck_vnStopped hrun (copyLiteral_vnStopped h))).leaves
  | nop o =>
    have hnop : VnStopped .cont (vnTake 1 0 s) := vnStopped_of_ne_dst hrun (by decide)
    exact (vnFinish_fullIfPending (windowCheck_vnStopped hrun (.ok hnop))).leaves
  | eos =>
    have heos : VnStopped .eos (vnTake 8 0 s) := vnStopped_of_ne_dst hrun (by decide)
    exact (vnFinish_fullIfPending (windowCheck_vnStopped hrun (.ok heos))).leaves
  | udef o =>
    have hudef : VnStopped .invalidOp s := vnStopped_of_ne_dst hrun (by decide)
    exact (vnFinish_fullIfPending (.ok hudef)).leaves
  | _ => exact nomatch hctx

/-! ## The triplet -/

/-- A triplet of a V1 or V2 block is copied at a distance, and DST has room for `rem` more bytes. -/
structure TripletRoom (rem : Nat) (s : State) : Prop where
  notFull : NotFull s
  blk : s.blk = .v1 ∨ s.blk = .v2
  distance : s.D ≠ none
  ends_at_dstCap : s.dstPos + rem = s.dstCap

/-- Copied bytes move the cursor and leave room for the others. -/
theorem TripletRoom.advance {rem n : Nat} {s : State} (h : TripletRoom rem s) (hn : n ≤ rem) (p : Nat) (mem : Memory)
    (j : Nat) : TripletRoom (rem - n) { s with dstPos := s.dstPos + n, litPos := p, dst := mem, draws := j } := by
  have hends := h.ends_at_dstCap
  exact ⟨h.notFull, h.blk, h.distance, by dsimp only; omega⟩

theorem copyLit_room {n rem : Nat} {s : State} {E : State → Prop} (h : TripletRoom rem s) (hn : n ≤ rem) :
    (copyLit n s).Yields (fun _ t => TripletRoom (rem - n) t ∧ t.L = s.L ∧ t.M = s.M) E := by
  rw [copyLit]
  refine (copyFromLit_frame _ _ _ s).bind fun _ t ht => .ok ?_
  rw [ht.only_dst]
  exact ⟨h.advance hn _ _ _, rfl, rfl⟩

theorem copyMatch_room {d n rem : Nat} {s : State} {E : State → Prop} (h : TripletRoom rem s) (hn : n ≤ rem) :
    (copyMatch d n s).Yields (fun _ t => TripletRoom (rem - n) t ∧ t.L = s.L ∧ t.M = s.M) E := by
  rw [copyMatch]
  refine (copyFromDst_frame _ _ _ s).bind fun _ t ht => .ok ?_
  rw [ht.only_dst]
  exact ⟨h.advance hn _ _ _, rfl, rfl⟩

/-- Once the room is used up, a stop with a remainder is as R284 says. -/
theorem TripletRoom.fullIsPending {rem l m : Nat} {t : State} (h : TripletRoom (rem - rem) t) (hlm : 1 ≤ l + m) :
    FullIsPending (stopRun .dstFull { t with L := l, M := m }) := by
  intro _
  have hends := h.ends_at_dstCap
  have hv : t.blk ≠ .none ∧ t.blk ≠ .raw ∧ t.blk ≠ .lzvn := by rcases h.blk with hb | hb <;> simp [hb]
  obtain ⟨hnone, hraw, hlzvn⟩ := hv
  exact ⟨by simpa using hends, hnone, fun hb => (hraw hb).elim, fun hb => (hlzvn hb).elim, fun _ => ⟨hlm, h.distance⟩⟩

theorem fastCopy_fullIfPending {d rem : Nat} {s : State} (h : TripletRoom rem s) (hfits : s.L + s.M ≤ rem) :
    (fastCopy d s).FullIfPending := by
  rw [fastCopy]
  refine (copyLit_room h (by omega)).bind fun _ s1 ⟨h1, _, hM⟩ => ?_
  exact (copyMatch_room h1 (by omega)).bind fun _ s2 ⟨h2, _⟩ => .ok (h2.notFull.congr rfl)

theorem slowMatch_fullIfPending {d rem : Nat} {s : State} (h : TripletRoom rem s) : (slowMatch d rem s).FullIfPending := by
  rw [slowMatch]
  refine .ite (fun hfits => (copyMatch_room h hfits).bind fun _ s1 ⟨h1, _⟩ => .ok (h1.notFull.congr rfl)) fun hcut =>
    (copyMatch_room h le_rfl).bind fun _ s1 ⟨h1, _, hM⟩ => .ended (h1.fullIsPending (m := s1.M - rem) ?_)
  omega

theorem slowCopy_fullIfPending {d : Nat} {s : State} (h : TripletRoom (s.dstCap - s.dstPos) s) :
    (slowCopy d s).FullIfPending := by
  rw [slowCopy]
  refine .ite (fun hfits => (copyLit_room h hfits).bind fun _ s1 ⟨h1, _⟩ => slowMatch_fullIfPending ?_) fun hcut =>
    (copyLit_room h le_rfl).bind fun _ s1 ⟨h1, hL, _⟩ =>
      .ended (h1.fullIsPending (l := s1.L - (s.dstCap - s.dstPos)) ?_)
  · exact ⟨h1.notFull.congr rfl, h1.blk, h1.distance, h1.ends_at_dstCap⟩
  · omega

theorem execute_fullIfPending {s : State} (h : NotFull s) (hblk : s.blk = .v1 ∨ s.blk = .v2) (hdst : s.dstPos ≤ s.dstCap) :
    (execute s).FullIfPending := by
  have bad : (Res.ended (raiseMalformed .badDistance s)).FullIfPending := .ended (raiseMalformed_fullIsPending _ s)
  rw [execute]
  cases hd : s.D with
  | none => exact bad
  | some d =>
    have hroom : TripletRoom (s.dstCap - s.dstPos) s := ⟨h, hblk, by simp [hd], by omega⟩
    exact .ite (fun _ => bad) fun _ => .ite (fun hfits => fastCopy_fullIfPending hroom (by omega)) fun _ =>
      slowCopy_fullIfPending hroom

/-! ## Where an instruction or an action stands -/

theorem decodeBlock_ctx {bs : List Byte} {i : Instr} (h : decodeBlock bs = .instr i) : i.ctx = .block := by
  simp only [decodeBlock] at h
  split_ifs at h <;> cases h <;> rfl

theorem decodeFreq_ctx (acc : Nat) : (decodeFreq acc).ctx = .freq := by
  unfold decodeFreq
  split <;> rfl

/-- The block that an LZVN opcode, or an action that copies, belongs to (45_dispatcher.md R380). -/
def Fetched.InBlock (s : State) : Fetched → Prop
  | .instr i => i.ctx = .lzvn → s.blk = .lzvn
  | .action .rawStep => s.blk = .raw
  | .action .vnRemainder => s.blk = .lzvn
  | .action .runExecute => s.phase = .copy ∨ s.blk = .v1 ∨ s.blk = .v2
  | _ => True

theorem fetchDecoded_block_inBlock (s : State) (bs : Option (List Byte)) : (fetchDecoded .block bs).InBlock s := by
  cases bs with
  | none => trivial
  | some l =>
    cases hdec : decodeBlock l with
    | instr i =>
      have hctx := decodeBlock_ctx hdec
      simp [fetchDecoded, decode, hdec, Fetched.InBlock, hctx]
    | reject r => simp [fetchDecoded, decode, hdec, Fetched.InBlock]

theorem fetchDecoded_lzvn_inBlock {s : State} (hblk : s.blk = .lzvn) (bs : Option (List Byte)) :
    (fetchDecoded .lzvn bs).InBlock s := by
  cases bs with
  | none => trivial
  | some l => cases hdec : decodeLzvn l <;> simp [fetchDecoded, decode, hdec, Fetched.InBlock, hblk]

theorem fetchTriplet_inBlock {s : State} (hblk : s.blk = .v1 ∨ s.blk = .v2) : (fetchTriplet s).InBlock s := by
  unfold fetchTriplet
  split
  · trivial
  · split
    · split
      · trivial
      · exact nofun
    · exact .inr hblk

theorem fetchReady_inBlock (s : State) : (fetchReady s).InBlock s := by
  unfold fetchReady
  cases hblk : s.blk with
  | none => exact fetchDecoded_block_inBlock s _
  | raw => exact hblk
  | lzvn =>
    dsimp only
    split
    · exact hblk
    · exact fetchDecoded_lzvn_inBlock hblk _
  | v1 => exact fetchTriplet_inBlock (.inl hblk)
  | v2 => exact fetchTriplet_inBlock (.inr hblk)

theorem fetch_inBlock (s : State) : (fetch s).InBlock s := by
  unfold fetch
  cases hphase : s.phase with
  | ready => exact fetchReady_inBlock s
  | freqs =>
    cases freqWindow s with
    | none => trivial
    | some r => simp [Fetched.InBlock, decodeFreq_ctx]
  | setup => trivial
  | lits =>
    dsimp only
    split
    · exact nofun
    · trivial
  | mVal => exact nofun
  | dVal => exact nofun
  | copy => exact .inl hphase

/-! ## The step -/

theorem runAction_fullIfPending {s : State} {a : Action} (hrun : s.status = .running) (hdst : s.dstPos ≤ s.dstCap)
    (hin : (Fetched.action a).InBlock s) (hcopy : s.phase = .copy → s.blk = .v1 ∨ s.blk = .v2) :
    (runAction a s).FullIfPending := by
  have hon := notFull_of_running hrun
  cases a with
  | rawStep => exact stepRaw_fullIfPending hon hin hdst
  | vnRemainder => exact vnFinish_fullIfPending (vnResume_vnStopped (lzvnRoom_vnDA hrun hin hdst))
  | sourceCheckFails => exact .ended (stopRun_srcEmpty_fullIsPending s)
  | blockEnd => exact .ok (hon.congr rfl)
  | runExecute => exact execute_fullIfPending hon (hin.elim hcopy id) hdst
  | runSetup => exact (setupStep_neverFull hon).fullIfPending
  | runLmdInit => exact (lmdInit_neverFull hon).fullIfPending

theorem runReject_fullIfPending {s : State} (hrun : s.status = .running) (r : Reject) : (runReject r s).FullIfPending := by
  cases r with
  | headerShort => exact .ended (stopRun_srcEmpty_fullIsPending s)
  | badMagic => exact .ended (raiseMalformed_fullIsPending .badMagic s)
  | opcodeShort =>
    have hsrc : VnStopped .src s := vnStopped_of_ne_dst hrun (by decide)
    exact vnFinish_fullIfPending (.ok hsrc)

/-- A running step that meets the invariant stops with DST_FULL only when DST is full and something is pending. -/
theorem step_fullIsPending {s : State} (hinv : Inv s) (hrun : s.status = .running) : Leaves FullIsPending (step s) := by
  obtain ⟨-, -, ⟨-, hdst⟩, -, -, hlive⟩ := hinv
  obtain ⟨-, ⟨-, -, -, hdecoded, -⟩, -, -⟩ := hlive (.inl hrun)
  have hcopy (hphase : s.phase = .copy) : s.blk = .v1 ∨ s.blk = .v2 := (hdecoded (.inr (.inr hphase))).1
  have hin := fetch_inBlock s
  rw [step, if_pos hrun, runStep]
  cases hfetch : fetch s with
  | instr i =>
    rw [hfetch] at hin
    by_cases hctx : i.ctx = .lzvn
    · exact exec_lzvn_fullIsPending hctx (lzvnRoom_vnDA hrun (hin hctx) hdst)
    · exact (exec_notFull (notFull_of_running hrun) hctx).mono fun _ => NotFull.fullIsPending
  | action a => exact (runAction_fullIfPending hrun hdst (hfetch ▸ hin) hcopy).leaves
  | reject r => exact (runReject_fullIfPending hrun r).leaves
  | fault f => trivial

/-! ## The source check and the end of a block -/

theorem stopRun_of_ready {s : State} (st : Status) (hready : s.phase = .ready) : stopRun st s = { s with status := st } := by
  rw [stopRun, ← hready]

/-- A running core at a step boundary of a V1 or V2 block takes a triplet step (43_lzfse_block.md R274). -/
theorem step_triplet_action {s : State} {a : Action} (hrun : s.status = .running) (hready : s.phase = .ready)
    (hblk : s.blk = .v1 ∨ s.blk = .v2) (hfetch : fetchTriplet s = .action a) : step s = (runAction a s).out := by
  have hblock : fetch s = .action a := by rcases hblk with hb | hb <;> simp [fetch, fetchReady, hready, hb, hfetch]
  rw [step, if_pos hrun, runStep, hblock]

theorem sourceShort_iff {s : State} : sourceShort s = true ↔ s.srcLen ≤ s.srcPos ∨ s.srcLen - s.srcPos < s.lmdPay := by
  rw [sourceShort, Bool.or_eq_true, decide_eq_true_iff, decide_eq_true_iff, srcAvail]

theorem fetchTriplet_short {s : State} (h : sourceShort s = true) : fetchTriplet s = .action .sourceCheckFails := if_pos h

theorem fetchTriplet_done {s : State} (h : ¬ sourceShort s = true) (hL : s.L = 0) (hM : s.M = 0) (hrem : s.nRem = 0) :
    fetchTriplet s = .action .blockEnd := by
  rw [fetchTriplet, if_neg h, if_pos ⟨hL, hM⟩, if_pos hrem]

end Sys2Proof.Machine

namespace Sys2Proof.Proofs.LzfseBlock
open Sys2Proof.Machine

/-! ## The statements of the family -/

/-- Settles O51: `FullIsPending` holds of the state that the step leaves. -/
theorem dstFullMeansFullAndPending : Obligations.DstFullMeansFullAndPending := by
  unfold Obligations.DstFullMeansFullAndPending
  intro s t hinv hrun hstep
  have hleaves := step_fullIsPending hinv hrun
  rwa [hstep, leaves_next] at hleaves

/-- Settles O41: the source check decides what comes next before anything else is looked at. -/
theorem tripletStepChecksAndEnds : Obligations.TripletStepChecksAndEnds := by
  unfold Obligations.TripletStepChecksAndEnds
  intro s hrun hready hblk
  refine ⟨fun hshort => ?_, fun hpos hpay hL hM hrem => ?_⟩
  · have hfetch := fetchTriplet_short (sourceShort_iff.2 hshort)
    rw [step_triplet_action hrun hready hblk hfetch, runAction, Res.out_ended, stopRun_of_ready _ hready]
  · have hthere : ¬ sourceShort s = true := by
      rw [sourceShort_iff]
      omega
    rw [step_triplet_action hrun hready hblk (fetchTriplet_done hthere hL hM hrem), runAction, Res.out_ok, endBlock]

end Sys2Proof.Proofs.LzfseBlock

/-! PROOFS. The LZVN opcodes (44_lzvn.md): how a step accounts for its stop reason, and from that the statement of the
family. -/

namespace Sys2Proof.Machine

/-! ## The end of an LZVN step -/

/-- A step that reaches a stop reason ends with the accounting for it (R323, R360). -/
@[simp] theorem vnFinish_ok (r : VnStop) (s : State) : vnFinish (.ok r s) = account r s := rfl

@[simp] theorem account_invalidOp (s : State) : account .invalidOp s = .ended (raiseMalformed .lzvnUdef s) := rfl

/-- An undefined opcode stops at once: neither window is looked at (R340). -/
theorem exec_udef (opc : Byte) (s : State) : exec (.udef opc) s = (vnFinish (.ok .invalidOp s)).out := rfl

end Sys2Proof.Machine

namespace Sys2Proof.Proofs.Lzvn
open Sys2Proof.Machine

/-! ## The statement of the family -/

/-- Settles O19: the opcode goes straight to the accounting, which raises LZVN_UDEF in the state as it was. -/
theorem undefinedOpcodeRaises : Obligations.UndefinedOpcodeRaises := by
  unfold Obligations.UndefinedOpcodeRaises
  intro s opc
  rw [exec_udef, vnFinish_ok, account_invalidOp, Res.out_ended, raiseMalformed]

end Sys2Proof.Proofs.Lzvn

/-! PROOFS. The dispatcher (45_dispatcher.md): the bytes that decide at a block start, the step that rejects them, the
end-of-stream block and the step of a RAW block; from that the statements of the family. -/

namespace Sys2Proof.Machine

/-! ## The decoder's refusals at a block start -/

theorem decodeBlock_noMagic {bs : List Byte} (h : bs.length < 4) : decodeBlock bs = .reject .headerShort := if_pos h

/-- Bytes that begin with none of the five magics are refused, however few they are (R386). -/
theorem decodeBlock_badMagic {bs : List Byte} (hlen : 4 ≤ bs.length) (hEos : leAt bs 0 4 ≠ magicEos)
    (hRaw : leAt bs 0 4 ≠ magicRaw) (hLzvn : leAt bs 0 4 ≠ magicLzvn) (hV1 : leAt bs 0 4 ≠ magicV1)
    (hV2 : leAt bs 0 4 ≠ magicV2) : decodeBlock bs = .reject .badMagic := by
  simp only [decodeBlock, if_neg hlen.not_gt, if_neg hEos, if_neg hRaw, if_neg hLzvn, if_neg hV1, if_neg hV2]

/-- The magic `m` belongs to a header that `n` bytes do not hold (R383 to R385). -/
def HeaderCutShort (m n : Nat) : Prop :=
  (m = magicRaw ∧ n < 8) ∨ (m = magicLzvn ∧ n < 12) ∨ (m = magicV1 ∧ n < 770) ∨ (m = magicV2 ∧ n < 32)

theorem decodeBlock_headerShort {bs : List Byte} (h : HeaderCutShort (leAt bs 0 4) bs.length) :
    decodeBlock bs = .reject .headerShort := by
  rw [decodeBlock]
  rcases h with ⟨hm, hlen⟩ | ⟨hm, hlen⟩ | ⟨hm, hlen⟩ | ⟨hm, hlen⟩
  · simp [hm, hlen, magicRaw, magicEos]
  · simp [hm, hlen, magicLzvn, magicRaw, magicEos]
  · simp [hm, hlen, magicV1, magicLzvn, magicRaw, magicEos, v1HeaderLen]
  · simp [hm, hlen, magicV2, magicV1, magicLzvn, magicRaw, magicEos, v2FixedLen]

/-! ## The bytes at a block start -/

/-- The bytes at a block start are always there: the longest header's 770, or all that SRC has. -/
theorem blockBytes_exists (s : State) : ∃ bs, blockBytes s = some bs ∧ bs.length = min 770 (srcAvail s) := by
  have hin : min fetchLen (srcAvail s) = 0 ∨ s.srcPos + min fetchLen (srcAvail s) ≤ s.srcLen := by
    rw [srcAvail]
    omega
  obtain ⟨bs, hbs⟩ := Option.isSome_iff_exists.1 ((srcBytes_isSome_iff s _ s.srcPos).2 hin)
  exact ⟨bs, hbs, srcBytes_length hbs⟩

/-- The magic that the decoder compares is the one SRC reads as. -/
theorem leAt_blockBytes_magic {s : State} {bs : List Byte} {m : Nat} (hbs : blockBytes s = some bs)
    (h4 : 4 ≤ srcAvail s) (hm : srcRead s s.srcPos 4 = some m) : leAt bs 0 4 = m := by
  have hread : srcRead s s.srcPos 4 = some (leAt bs 0 4) :=
    srcRead_eq_leAt (off := 0) hbs (le_min (by decide) h4)
  exact Option.some_inj.1 (hread.symm.trans hm)

/-! ## The step at a block start -/

/-- A running core at a block start takes the stop or the raise of the refusal (R381, R386). -/
theorem step_of_decodeBlock_reject {s : State} {bs : List Byte} {r : Reject} (hrun : s.status = .running)
    (hready : s.phase = .ready) (hblk : s.blk = .none) (hbs : blockBytes s = some bs)
    (hdec : decodeBlock bs = .reject r) : step s = (runReject r s).out := by
  have hfetch : fetch s = .reject r := by simp [fetch, fetchReady, fetchDecoded, decode, hready, hblk, hbs, hdec]
  rw [step, if_pos hrun, runStep, hfetch]

/-- A short header stops the run with SRC_EMPTY and writes nothing else. -/
theorem step_headerShort {s : State} {bs : List Byte} (hrun : s.status = .running) (hready : s.phase = .ready)
    (hblk : s.blk = .none) (hbs : blockBytes s = some bs) (hdec : decodeBlock bs = .reject .headerShort) :
    step s = .next { s with status := .srcEmpty } := by
  rw [step_of_decodeBlock_reject hrun hready hblk hbs hdec, runReject, Res.out_ended, stopRun_of_ready _ hready]

/-- `bvx$` needs its magic only (R382). -/
theorem exec_bvxEos {s : State} (h4 : 4 ≤ srcAvail s) :
    exec .bvxEos s = .next { s with srcPos := s.srcPos + 4, eosSeen := true, status := .ok, phase := .ready } :=
  if_neg h4.not_gt

/-! ## The step of a RAW block -/

theorem step_raw {s : State} (hrun : s.status = .running) (hready : s.phase = .ready) (hblk : s.blk = .raw) :
    step s = (stepRaw s).out := by
  have hfetch : fetch s = .action .rawStep := by rw [fetch, hready, fetchReady, hblk]
  rw [step, if_pos hrun, runStep, hfetch]
  rfl

theorem stepRaw_done {s : State} (hrem : s.rawRem = 0) : stepRaw s = .ok () { s with blk := .none } := if_pos hrem

/-- SRC_EMPTY comes before any look at the room of DST. -/
theorem stepRaw_srcEmpty {s : State} (hrem : s.rawRem ≠ 0) (hsrc : srcAvail s = 0) :
    stepRaw s = .ended (stopRun .srcEmpty s) := by
  rw [stepRaw, if_neg hrem, if_pos hsrc]

theorem stepRaw_dstFull {s : State} (hrem : s.rawRem ≠ 0) (hsrc : srcAvail s ≠ 0) (hdst : s.dstCap - s.dstPos = 0) :
    stepRaw s = .ended (stopRun .dstFull s) := by
  rw [stepRaw, if_neg hrem, if_neg hsrc, if_pos hdst]

theorem stepRaw_copies {s : State} (hrem : s.rawRem ≠ 0) (hsrc : srcAvail s ≠ 0) (hdst : s.dstCap - s.dstPos ≠ 0) :
    stepRaw s = rawCopy s := by
  rw [stepRaw, if_neg hrem, if_neg hsrc, if_neg hdst]

end Sys2Proof.Machine

namespace Sys2Proof.Proofs.Dispatcher
open Sys2Proof.Machine

/-! ## The statements of the family -/

/-- Settles O8: the step takes the decoder's refusal of the bytes at the block start, whose magic and number are those of
SRC. -/
theorem blockStartStops : Obligations.BlockStartStops := by
  unfold Obligations.BlockStartStops
  intro s hrun hready hblk
  obtain ⟨bs, hbs, hlen⟩ := blockBytes_exists s
  refine ⟨fun hfew => ?_, fun m h4 hm => ?_⟩
  · exact step_headerShort hrun hready hblk hbs (decodeBlock_noMagic (by omega))
  · obtain rfl := leAt_blockBytes_magic hbs h4 hm
    refine ⟨fun hEos hRaw hLzvn hV1 hV2 => ?_, fun hshort => ?_⟩
    · have hdec := decodeBlock_badMagic (by omega) hEos hRaw hLzvn hV1 hV2
      rw [step_of_decodeBlock_reject hrun hready hblk hbs hdec, runReject, Res.out_ended, raiseMalformed]
    · have hcut : HeaderCutShort (leAt bs 0 4) bs.length := by
        rw [HeaderCutShort]
        omega
      exact step_headerShort hrun hready hblk hbs (decodeBlock_headerShort hcut)

/-- Settles O13: the three tests of `StepRAW` in their order, and then the copy, which none of them leaves empty. -/
theorem rawBlockStep : Obligations.RawBlockStep := by
  unfold Obligations.RawBlockStep
  intro s hrun hready hblk
  rw [step_raw hrun hready hblk]
  refine ⟨fun hrem => ?_, fun hrem hsrc => ?_, fun hrem hsrc hdst => ?_, fun n hrem hsrc hdst hn => ?_⟩
  · rw [stepRaw_done hrem, Res.out_ok]
  · rw [stepRaw_srcEmpty hrem hsrc, Res.out_ended, stopRun_of_ready _ hready]
  · rw [stepRaw_dstFull hrem hsrc hdst, Res.out_ended, stopRun_of_ready _ hready]
  · obtain ⟨mem, hcopy, hbelow, hcopied, habove⟩ := rawCopy_runs hn (by omega)
    refine ⟨mem, s.draws + 1, ?_, hbelow, hcopied, fun j hj => absurd hj j.not_lt_zero, habove⟩
    rw [stepRaw_copies hrem hsrc hdst, hcopy, Res.out_ok]

/-- Settles O9: the step reads no byte of SRC, so what follows the magic does not matter. -/
theorem endOfStreamBlockEndsTheRun : Obligations.EndOfStreamBlockEndsTheRun := by
  unfold Obligations.EndOfStreamBlockEndsTheRun
  exact fun _ h4 => exec_bvxEos h4

end Sys2Proof.Proofs.Dispatcher

/-! PROOFS. Encoding (30_encoding.md): little-endian fields read back, the byte set of every LZVN opcode class, and the round
trips of block headers, LZVN opcodes and frequency codes; from that the statements of the family. -/

namespace Sys2Proof

/-! ## Little-endian fields -/

theorem leNat_leBytes (n v : Nat) : leNat (leBytes n v) = v % 2 ^ (8 * n) := by
  induction n generalizing v with
  | zero => simp [leBytes, leNat, Nat.mod_one]
  | succ n ih =>
    have hpow : 2 ^ (8 * (n + 1)) = 256 * 2 ^ (8 * n) := by rw [Nat.mul_succ, Nat.pow_add, Nat.mul_comm]
    rw [leBytes, leNat, ih, hpow, Nat.mod_mul, BitVec.toNat_ofNat]

theorem leAt_leBytes {n v : Nat} (rest : List Byte) (h : v < 2 ^ (8 * n)) : leAt (leBytes n v ++ rest) 0 n = v := by
  rw [leAt, List.drop_zero, List.take_left' (Laws.length_leBytes n v), leNat_leBytes, Nat.mod_eq_of_lt h]

/-- A field past the first bytes is a field of the bytes after them. -/
theorem leAt_leBytes_append {k v off n : Nat} (rest : List Byte) (h : k ≤ off) :
    leAt (leBytes k v ++ rest) off n = leAt rest (off - k) n := by
  rw [leAt, List.drop_append, Laws.length_leBytes, List.drop_eq_nil_of_le (by rwa [Laws.length_leBytes]), List.nil_append,
    leAt]

theorem leNat_take_leBytes {n v : Nat} (rest : List Byte) (h : v < 2 ^ (8 * n)) :
    leNat ((leBytes n v ++ rest).take n) = v := leAt_leBytes rest h

theorem u16s_u16Bytes (vs : List Nat) (h : ∀ v ∈ vs, v < 2 ^ 16) : u16s (u16Bytes vs) = vs := by
  induction vs with
  | nil => rfl
  | cons v vs ih =>
    have hv : v < 2 ^ 16 := h v (by simp)
    have hpair : v % 256 + 256 * (v / 256 % 256) = v := by omega
    simp only [u16Bytes, leBytes, List.cons_append, List.nil_append, u16s, BitVec.toNat_ofNat,
      ih fun w hw => h w (by simp [hw])]
    rw [hpair]

theorem sext32_word32 {i : Int} (hlo : -2 ^ 31 ≤ i) (hhi : i < 2 ^ 31) : sext32 (word32 i) = i := by
  rw [sext32, word32]
  split <;> omega

theorem word32_lt (i : Int) : word32 i < 2 ^ 32 := by
  rw [word32]
  omega

/-! ## Block headers -/

theorem decodeV1_encodeV1 {h : V1Header} (rest : List Byte) (hwf : h.wf = true) : decodeV1 (encodeV1 h ++ rest) = h := by
  obtain ⟨nRaw, nPayload, nLiterals, nMatches, nLitPayload, nLmdPayload, literalBits, ⟨l0, l1, l2, l3⟩, lmdBits, lState, mState,
    dState, freqs⟩ := h
  simp only [V1Header.wf, Lanes.below, Bool.and_eq_true, decide_eq_true_eq, List.all_eq_true,
    Nat.reducePow] at hwf
  obtain ⟨⟨⟨⟨⟨⟨⟨⟨⟨⟨⟨⟨⟨⟨⟨hRaw, hPay⟩, hLits⟩, hMat⟩, hLitPay⟩, hLmdPay⟩, hlb⟩, hlb'⟩, ⟨⟨⟨h0, h1⟩, h2⟩, h3⟩⟩, hmb⟩, hmb'⟩, hl⟩, hm⟩,
    hd⟩, hlen⟩, hfreqs⟩ := hwf
  have hbytes : (u16Bytes freqs).length = 720 := by rw [Laws.length_u16Bytes, hlen]
  have hw : word32 literalBits < 4294967296 := word32_lt literalBits
  have hw' : word32 lmdBits < 4294967296 := word32_lt lmdBits
  have hlist : (u16Bytes freqs ++ rest).take 720 = u16Bytes freqs := List.take_left' hbytes
  simp [decodeV1, encodeV1, lanesAt, lanesBytes, leAt_leBytes_append, leAt_leBytes, List.drop_append, Laws.length_leBytes,
    List.drop_eq_nil_of_le, hRaw, hPay, hLits, hMat, hLitPay, hLmdPay, h0, h1, h2, h3, hl, hm, hd, hw, hw',
    sext32_word32 hlb hlb', sext32_word32 hmb hmb', hlist, u16s_u16Bytes freqs hfreqs]

/-- The packed words of a V2 header fit their 8 bytes (30_encoding.md R108). -/
theorem packV2_lt {h : V2Header} (hwf : h.wf = true) :
    h.nRaw < 2 ^ 32 ∧ packV2w0 h < 2 ^ 64 ∧ packV2w1 h < 2 ^ 64 ∧ packV2w2 h < 2 ^ 64 := by
  simp only [V2Header.wf, Lanes.below, Bool.and_eq_true, decide_eq_true_eq] at hwf
  obtain ⟨⟨⟨⟨⟨⟨⟨⟨⟨⟨⟨⟨⟨hRaw, hLits⟩, hLitPay⟩, hMat⟩, hlb⟩, hlb'⟩, ⟨⟨⟨h0, h1⟩, h2⟩, h3⟩⟩, hLmdPay⟩, hmb⟩, hmb'⟩, hsize⟩, hl⟩,
    hm⟩, hd⟩ := hwf
  simp only [packV2w0, packV2w1, packV2w2]
  exact ⟨hRaw, by omega, by omega, by omega⟩

theorem unpackV2_packV2 {h : V2Header} (hwf : h.wf = true) :
    unpackV2 h.nRaw (packV2w0 h) (packV2w1 h) (packV2w2 h) = h := by
  obtain ⟨nRaw, nLiterals, nLitPayload, nMatches, literalBits, ⟨l0, l1, l2, l3⟩, nLmdPayload, lmdBits, headerSize, lState, mState,
    dState⟩ := h
  simp only [V2Header.wf, Lanes.below, Bool.and_eq_true, decide_eq_true_eq] at hwf
  obtain ⟨⟨⟨⟨⟨⟨⟨⟨⟨⟨⟨⟨⟨hRaw, hLits⟩, hLitPay⟩, hMat⟩, hlb⟩, hlb'⟩, ⟨⟨⟨h0, h1⟩, h2⟩, h3⟩⟩, hLmdPay⟩, hmb⟩, hmb'⟩, hsize⟩, hl⟩,
    hm⟩, hd⟩ := hwf
  simp only [packV2w0, packV2w1, packV2w2, unpackV2, field, V2Header.mk.injEq, Lanes.mk.injEq, true_and]
  refine ⟨?_, ?_, ?_, ?_, ⟨?_, ?_, ?_, ?_⟩, ?_, ?_, ?_, ?_, ?_, ?_⟩ <;> omega

theorem decodeV2_encodeV2 {h : V2Header} (rest : List Byte) (hwf : h.wf = true) : decodeV2 (encodeV2 h ++ rest) = h := by
  obtain ⟨hRaw, h0, h1, h2⟩ := packV2_lt hwf
  have words : leAt (encodeV2 h ++ rest) 4 4 = h.nRaw ∧ leAt (encodeV2 h ++ rest) 8 8 = packV2w0 h ∧
      leAt (encodeV2 h ++ rest) 16 8 = packV2w1 h ∧ leAt (encodeV2 h ++ rest) 24 8 = packV2w2 h := by
    simp only [encodeV2, List.append_assoc]
    refine ⟨?_, ?_, ?_, ?_⟩
    · rw [leAt_leBytes_append _ le_rfl, leAt_leBytes _ hRaw]
    · rw [leAt_leBytes_append _ (by decide), leAt_leBytes_append _ (by decide), leAt_leBytes _ h0]
    · rw [leAt_leBytes_append _ (by decide), leAt_leBytes_append _ (by decide), leAt_leBytes_append _ (by decide),
        leAt_leBytes _ h1]
    · rw [leAt_leBytes_append _ (by decide), leAt_leBytes_append _ (by decide), leAt_leBytes_append _ (by decide),
        leAt_leBytes_append _ (by decide), leAt_leBytes _ h2]
  obtain ⟨hw, hw0, hw1, hw2⟩ := words
  rw [decodeV2, hw, hw0, hw1, hw2, unpackV2_packV2 hwf]

section Magics
variable {bs : List Byte}

theorem decodeBlock_eos (hlen : 4 ≤ bs.length) (hm : leAt bs 0 4 = magicEos) : decodeBlock bs = .instr .bvxEos := by
  simp [decodeBlock, hm, hlen.not_gt]

theorem decodeBlock_raw (hlen : 8 ≤ bs.length) (hm : leAt bs 0 4 = magicRaw) :
    decodeBlock bs = .instr (.bvxRaw (leAt bs 4 4)) := by
  simp [decodeBlock, hm, hlen.not_gt, show ¬ bs.length < 4 by omega, magicRaw, magicEos]

theorem decodeBlock_lzvn (hlen : 12 ≤ bs.length) (hm : leAt bs 0 4 = magicLzvn) :
    decodeBlock bs = .instr (.bvxLzvn (leAt bs 4 4) (leAt bs 8 4)) := by
  simp [decodeBlock, hm, hlen.not_gt, show ¬ bs.length < 4 by omega, magicLzvn, magicRaw, magicEos]

theorem decodeBlock_bvx1 (hlen : 770 ≤ bs.length) (hm : leAt bs 0 4 = magicV1) :
    decodeBlock bs = .instr (.bvx1 (decodeV1 bs)) := by
  simp [decodeBlock, hm, hlen.not_gt, show ¬ bs.length < 4 by omega, magicV1, magicLzvn, magicRaw, magicEos, v1HeaderLen]

theorem decodeBlock_bvx2 (hlen : 32 ≤ bs.length) (hm : leAt bs 0 4 = magicV2) :
    decodeBlock bs = .instr (.bvx2 (decodeV2 bs)) := by
  simp [decodeBlock, hm, hlen.not_gt, show ¬ bs.length < 4 by omega, magicV2, magicV1, magicLzvn, magicRaw, magicEos,
    v2FixedLen]

end Magics

/-- A header's encoding begins with its magic, and the fields behind it decode to the header's operands. -/
theorem decodeBlock_encode {i : Instr} (rest : List Byte) (hctx : i.ctx = .block) (hwf : i.wf = true) :
    decodeBlock (encode i ++ rest) = .instr i := by
  have magicFirst {m : Nat} (h : m < 2 ^ (8 * 4)) (more : List Byte) : leAt (leBytes 4 m ++ more) 0 4 = m := leAt_leBytes more h
  cases i with
  | bvxEos => exact decodeBlock_eos (by simp [encode, Laws.length_leBytes]) (magicFirst (by decide) rest)
  | bvxRaw n =>
    have hn : n < 2 ^ 32 := by simpa [Instr.wf] using hwf
    simp only [encode, List.append_assoc]
    rw [decodeBlock_raw (by simp [Laws.length_leBytes]; omega) (magicFirst (by decide) _), leAt_leBytes_append _ le_rfl,
      leAt_leBytes _ hn]
  | bvxLzvn n p =>
    have hnp : n < 2 ^ 32 ∧ p < 2 ^ 32 := by simpa [Instr.wf] using hwf
    simp only [encode, List.append_assoc]
    rw [decodeBlock_lzvn (by simp [Laws.length_leBytes]; omega) (magicFirst (by decide) _), leAt_leBytes_append _ le_rfl,
      leAt_leBytes _ hnp.1, leAt_leBytes_append _ (by decide), leAt_leBytes_append _ (by decide), leAt_leBytes _ hnp.2]
  | bvx1 h =>
    have hlen : (encode (.bvx1 h)).length = 770 := Laws.EncodeLength.bvx1 h hwf
    have hmagic : leAt (encode (.bvx1 h) ++ rest) 0 4 = magicV1 := by
      simp only [encode, encodeV1, List.append_assoc]
      exact magicFirst (by decide) _
    rw [decodeBlock_bvx1 (by rw [List.length_append]; omega) hmagic, encode, decodeV1_encodeV1 rest hwf]
  | bvx2 h =>
    have hlen : (encode (.bvx2 h)).length = 32 := Laws.EncodeLength.bvx2 h hwf
    have hmagic : leAt (encode (.bvx2 h) ++ rest) 0 4 = magicV2 := by
      simp only [encode, encodeV2, List.append_assoc]
      exact magicFirst (by decide) _
    rw [decodeBlock_bvx2 (by rw [List.length_append]; omega) hmagic, encode, decodeV2_encodeV2 rest hwf]
  | _ => nomatch hctx

/-! ## LZVN opcodes -/

/-- The opcode bytes `LLMMMxxx` of the classes that hold both lengths in the byte (30_encoding.md R111, R113, R114). -/
def LengthByte (o : Nat) : Prop := o < 0x70 ∨ (0x80 ≤ o ∧ o < 0xA0) ∨ (0xC0 ≤ o ∧ o < 0xD0)

/-- The opcode bytes of a class (30_encoding.md R110 to R121). -/
def OpClass.Has (o : Nat) : OpClass → Prop
  | .smlD => LengthByte o ∧ o % 8 < 6
  | .medD => 0xA0 ≤ o ∧ o < 0xC0
  | .lrgD => LengthByte o ∧ o % 8 = 7
  | .preD => LengthByte o ∧ 0x40 ≤ o ∧ o % 8 = 6
  | .smlM => 0xF0 < o
  | .lrgM => o = 0xF0
  | .smlL => 0xE0 < o ∧ o < 0xF0
  | .lrgL => o = 0xE0
  | .nop => o = 0x0E ∨ o = 0x16
  | .eos => o = 0x06
  | .udef => udefByte o = true

/-- Every byte is in its class (R110: the classes cover all bytes). -/
theorem opClass_has {o : Nat} (ho : o < 256) : (opClass o).Has o := by
  unfold opClass
  dsimp only
  split_ifs <;> simp only [OpClass.Has, LengthByte, udefByte, Bool.or_eq_true, Bool.and_eq_true, decide_eq_true_eq] <;> omega

/-- A byte is in no other class (R110: the classes are disjoint). -/
theorem OpClass.Has.eq {o : Nat} {c : OpClass} (h : c.Has o) (ho : o < 256) : opClass o = c := by
  have h' := opClass_has ho
  generalize opClass o = c' at h'
  cases c <;> cases c' <;>
    simp only [OpClass.Has, LengthByte, udefByte, Bool.or_eq_true, Bool.and_eq_true, decide_eq_true_eq, reduceCtorEq] at h h' ⊢ <;>
    omega

/-- With the bytes of its class behind it, an opcode byte decodes. -/
theorem decodeLzvn_class {opc : Byte} {bs : List Byte} (h : (opClass opc.toNat).readLen ≤ bs.length + 1) :
    decodeLzvn (opc :: bs) = .instr (decodeOpcode opc (leNat (bs.take 1)) (leNat (bs.take 2))) := by
  rw [decodeLzvn, if_neg (by rwa [List.length_cons, not_lt])]

/-- A byte of the class `c`, written from its number, with the bytes of the class behind it. -/
theorem OpClass.Has.decodes {o : Nat} {c : OpClass} (h : c.Has o) (ho : o < 256) {bs : List Byte}
    (hlen : c.readLen ≤ bs.length + 1) :
    opClass o = c ∧ (BitVec.ofNat 8 o).toNat = o ∧
      decodeLzvn (BitVec.ofNat 8 o :: bs) =
        .instr (decodeOpcode (BitVec.ofNat 8 o) (leNat (bs.take 1)) (leNat (bs.take 2))) := by
  have hnat : (BitVec.ofNat 8 o).toNat = o := by rw [BitVec.toNat_ofNat, Nat.mod_eq_of_lt ho]
  have hc := h.eq ho
  exact ⟨hc, hnat, decodeLzvn_class (by rwa [hnat, hc])⟩

theorem leNat_take_one (b : Byte) (bs : List Byte) : leNat ((b :: bs).take 1) = b.toNat := by simp [leNat]

theorem lmPair_le {l m : Nat} (h : lmPair l m = true) : l ≤ 3 ∧ 3 ≤ m ∧ m ≤ 10 := by
  simp only [lmPair, Bool.and_eq_true, Bool.or_eq_true, decide_eq_true_eq] at h
  omega

/-- The bytes of a length pair are those of the three classes that hold one. -/
theorem lmPair_iff {l m low : Nat} (hlow : low < 8) (hl : l ≤ 3) (hm : 3 ≤ m) (hm' : m ≤ 10) :
    lmPair l m = true ↔ LengthByte (64 * l + 8 * (m - 3) + low) := by
  simp only [lmPair, LengthByte, Bool.and_eq_true, Bool.or_eq_true, decide_eq_true_eq]
  omega

theorem decodeLzvn_encode {i : Instr} (rest : List Byte) (hctx : i.ctx = .lzvn) (hwf : i.wf = true) :
    decodeLzvn (encode i ++ rest) = .instr i := by
  cases i with
  | smlD l m d =>
    simp only [Instr.wf, Bool.and_eq_true, decide_eq_true_eq] at hwf
    obtain ⟨hlm, hd⟩ := hwf
    obtain ⟨hl, hm, hm'⟩ := lmPair_le hlm
    have hclass : OpClass.smlD.Has (64 * l + 8 * (m - 3) + d / 256) := ⟨(lmPair_iff (by omega) hl hm hm').1 hlm, by omega⟩
    obtain ⟨hc, hnat, hdec⟩ := hclass.decodes (by omega) (bs := leBytes 1 d ++ rest) (Nat.le_add_left _ _)
    rw [encode, opcLMD, List.cons_append, hdec]
    simp only [decodeOpcode, hc, hnat, field, leBytes, List.cons_append, leNat_take_one, BitVec.toNat_ofNat,
      Decoded.instr.injEq, Instr.smlD.injEq]
    refine ⟨?_, ?_, ?_⟩ <;> omega
  | medD l m d =>
    simp only [Instr.wf, Bool.and_eq_true, decide_eq_true_eq] at hwf
    obtain ⟨⟨⟨hl, hm⟩, hm'⟩, hd⟩ := hwf
    have hclass : OpClass.medD.Has (0xA0 + 8 * l + (m - 3) / 4) := by simp only [OpClass.Has]; omega
    obtain ⟨hc, hnat, hdec⟩ := hclass.decodes (by omega) (bs := leBytes 2 (4 * d + (m - 3) % 4) ++ rest)
      (by simp [leBytes, OpClass.readLen, OpClass.opcLen])
    rw [encode, List.cons_append, hdec, leNat_take_leBytes rest (by omega)]
    simp only [decodeOpcode, hc, hnat, field, Decoded.instr.injEq, Instr.medD.injEq]
    refine ⟨?_, ?_, ?_⟩ <;> omega
  | lrgD l m d =>
    simp only [Instr.wf, Bool.and_eq_true, decide_eq_true_eq] at hwf
    obtain ⟨hlm, hd⟩ := hwf
    obtain ⟨hl, hm, hm'⟩ := lmPair_le hlm
    have hclass : OpClass.lrgD.Has (64 * l + 8 * (m - 3) + 7) := ⟨(lmPair_iff (by omega) hl hm hm').1 hlm, by omega⟩
    obtain ⟨hc, hnat, hdec⟩ := hclass.decodes (by omega) (bs := leBytes 2 d ++ rest)
      (by simp [leBytes, OpClass.readLen, OpClass.opcLen])
    rw [encode, opcLMD, List.cons_append, hdec, leNat_take_leBytes rest (by omega)]
    simp only [decodeOpcode, hc, hnat, field, Decoded.instr.injEq, Instr.lrgD.injEq]
    exact ⟨by omega, by omega, trivial⟩
  | preD l m =>
    simp only [Instr.wf, Bool.and_eq_true, decide_eq_true_eq] at hwf
    obtain ⟨hpos, hlm⟩ := hwf
    obtain ⟨hl, hm, hm'⟩ := lmPair_le hlm
    have hclass : OpClass.preD.Has (64 * l + 8 * (m - 3) + 6) := ⟨(lmPair_iff (by omega) hl hm hm').1 hlm, by omega, by omega⟩
    obtain ⟨hc, hnat, hdec⟩ := hclass.decodes (by omega) (bs := rest) (Nat.le_add_left _ _)
    rw [encode, opcLMD, List.singleton_append, hdec]
    simp only [decodeOpcode, hc, hnat, field, Decoded.instr.injEq, Instr.preD.injEq]
    refine ⟨?_, ?_⟩ <;> omega
  | smlM m =>
    simp only [Instr.wf, Bool.and_eq_true, decide_eq_true_eq] at hwf
    have hclass : OpClass.smlM.Has (0xF0 + m) := by simp only [OpClass.Has]; omega
    obtain ⟨hc, hnat, hdec⟩ := hclass.decodes (by omega) (bs := rest) (Nat.le_add_left _ _)
    rw [encode, List.singleton_append, hdec]
    simp only [decodeOpcode, hc, hnat, field, Decoded.instr.injEq, Instr.smlM.injEq]
    omega
  | lrgM m =>
    simp only [Instr.wf, Bool.and_eq_true, decide_eq_true_eq] at hwf
    obtain ⟨hc, hnat, hdec⟩ := OpClass.Has.decodes (c := .lrgM) (o := 0xF0) rfl (by decide)
      (bs := BitVec.ofNat 8 (m - 16) :: rest) (Nat.le_add_left _ _)
    rw [encode, List.cons_append, List.singleton_append, hdec]
    simp only [decodeOpcode, hnat, hc, leNat_take_one, BitVec.toNat_ofNat, Decoded.instr.injEq, Instr.lrgM.injEq]
    omega
  | smlL l =>
    simp only [Instr.wf, Bool.and_eq_true, decide_eq_true_eq] at hwf
    have hclass : OpClass.smlL.Has (0xE0 + l) := by simp only [OpClass.Has]; omega
    obtain ⟨hc, hnat, hdec⟩ := hclass.decodes (by omega) (bs := rest) (Nat.le_add_left _ _)
    rw [encode, List.singleton_append, hdec]
    simp only [decodeOpcode, hc, hnat, field, Decoded.instr.injEq, Instr.smlL.injEq]
    omega
  | lrgL l =>
    simp only [Instr.wf, Bool.and_eq_true, decide_eq_true_eq] at hwf
    obtain ⟨hc, hnat, hdec⟩ := OpClass.Has.decodes (c := .lrgL) (o := 0xE0) rfl (by decide)
      (bs := BitVec.ofNat 8 (l - 16) :: rest) (Nat.le_add_left _ _)
    rw [encode, List.cons_append, List.singleton_append, hdec]
    simp only [decodeOpcode, hnat, hc, leNat_take_one, BitVec.toNat_ofNat, Decoded.instr.injEq, Instr.lrgL.injEq]
    omega
  | nop opc =>
    simp only [Instr.wf, Bool.or_eq_true, decide_eq_true_eq] at hwf
    rcases hwf with rfl | rfl <;> rfl
  | eos => rfl
  | udef opc =>
    have hc : opClass opc.toNat = .udef := OpClass.Has.eq (c := .udef) hwf opc.isLt
    rw [encode, List.singleton_append, decodeLzvn_class (by rw [hc]; exact Nat.le_add_left _ _)]
    simp only [decodeOpcode, hc]
  | _ => nomatch hctx

theorem leNat_singleton (b : Byte) : leNat [b] = b.toNat := by simp [leNat]

theorem leNat_pair (b1 b2 : Byte) : leNat [b1, b2] = b1.toNat + 256 * b2.toNat := by simp [leNat]

/-- A byte is its number's byte. -/
theorem ofNat_eq_byte {n : Nat} {b : Byte} (h : n % 256 = b.toNat) : BitVec.ofNat 8 n = b :=
  BitVec.eq_of_toNat_eq (by rwa [BitVec.toNat_ofNat])

theorem leBytes_one {n : Nat} {b : Byte} (h : n % 256 = b.toNat) : leBytes 1 n = [b] := by
  rw [leBytes, ofNat_eq_byte h, leBytes]

theorem leBytes_pair {n : Nat} {b1 b2 : Byte} (h : n = leNat [b1, b2]) : leBytes 2 n = [b1, b2] := by
  have h1 := b1.isLt
  rw [leNat_pair] at h
  rw [leBytes, ofNat_eq_byte (b := b1) (by omega), leBytes_one (b := b2) (by omega)]

theorem decodeOpcode_ctx (opc : Byte) (b w : Nat) : (decodeOpcode opc b w).ctx = .lzvn := by
  unfold decodeOpcode
  dsimp only
  cases opClass opc.toNat <;> rfl

/-- What the decoder reads from an opcode is well formed: each field lies in its class's range. -/
theorem decodeOpcode_wf (opc : Byte) {b w : Nat} (hb : b < 256) (hw : w < 2 ^ 16) : (decodeOpcode opc b w).wf = true := by
  have ho := opc.isLt
  have hhas := opClass_has ho
  unfold decodeOpcode
  dsimp only
  generalize opClass opc.toNat = c at hhas
  cases c with
  | nop => simpa [Instr.wf, OpClass.Has, BitVec.toNat_eq] using hhas
  | eos => rfl
  | udef => exact hhas
  | lrgM | lrgL =>
    simp only [Instr.wf, Bool.and_eq_true, decide_eq_true_eq]
    omega
  | _ =>
    simp only [OpClass.Has, LengthByte] at hhas
    simp only [Instr.wf, lmPair, Bool.or_eq_true, Bool.and_eq_true, decide_eq_true_eq]
    simp only [field]
    omega

/-- The encoder writes the bytes that the opcode was read from. -/
theorem encode_decodeOpcode (opc b1 b2 : Byte) (hopc : opc ≠ 0x06#8) :
    encode (decodeOpcode opc (leNat [b1]) (leNat [b1, b2])) = [opc, b1, b2].take (opClass opc.toNat).opcLen := by
  have ho := opc.isLt
  have h1 := b1.isLt
  have h2 := b2.isLt
  have hw := leNat_pair b1 b2
  have hhas := opClass_has ho
  unfold decodeOpcode
  rw [leNat_singleton]
  dsimp only
  generalize opClass opc.toNat = c at hhas
  cases c with
  | smlD =>
    obtain ⟨-, hlow⟩ := hhas
    simp only [encode, opcLMD, field]
    rw [ofNat_eq_byte (b := opc) (by omega), leBytes_one (b := b1) (by omega)]
    rfl
  | medD =>
    simp only [OpClass.Has] at hhas
    simp only [encode, field]
    rw [ofNat_eq_byte (b := opc) (by omega), leBytes_pair (b1 := b1) (b2 := b2) (by omega)]
    rfl
  | lrgD =>
    obtain ⟨-, hlow⟩ := hhas
    simp only [encode, opcLMD, field]
    rw [ofNat_eq_byte (b := opc) (by omega), leBytes_pair (b1 := b1) (b2 := b2) rfl]
    rfl
  | preD =>
    obtain ⟨-, -, hlow⟩ := hhas
    simp only [encode, opcLMD, field]
    rw [ofNat_eq_byte (b := opc) (by omega)]
    rfl
  | smlM =>
    simp only [OpClass.Has] at hhas
    simp only [encode, field]
    rw [ofNat_eq_byte (b := opc) (by omega)]
    rfl
  | lrgM =>
    obtain rfl : opc = 0xF0#8 := BitVec.eq_of_toNat_eq hhas
    rw [encode, Nat.add_sub_cancel, ofNat_eq_byte (n := b1.toNat) (Nat.mod_eq_of_lt h1)]
    rfl
  | smlL =>
    simp only [OpClass.Has] at hhas
    simp only [encode, field]
    rw [ofNat_eq_byte (b := opc) (by omega)]
    rfl
  | lrgL =>
    obtain rfl : opc = 0xE0#8 := BitVec.eq_of_toNat_eq hhas
    rw [encode, Nat.add_sub_cancel, ofNat_eq_byte (n := b1.toNat) (Nat.mod_eq_of_lt h1)]
    rfl
  | nop => rfl
  | eos => exact (hopc (BitVec.eq_of_toNat_eq hhas)).elim
  | udef => rfl
/-! ## Frequency codes -/

/-- The bit length of a code, by the low bits that select its class (42_header.md R241). -/
def codeLen (r : Nat) : Nat :=
  if r % 2 = 0 then 2 else if r % 4 = 1 then 3 else if r % 8 = 3 then 5 else if r % 16 = 7 then 8 else 14

/-- The count of a code of 2, 3 or 5 bits. -/
def codeCount (r : Nat) : Nat :=
  if r % 2 = 0 then r % 4 / 2 else if r % 4 = 1 then 2 + r % 8 / 4 else 4 + r % 32 / 8

theorem freqNbits_getD : ∀ r < 32, freqNbits.getD r 0 = codeLen r := by decide

theorem freqValue_getD : ∀ r < 32, r % 8 ≠ 7 → freqValue.getD r 0 = codeCount r := by decide

section Codes
variable {acc v : Nat}

theorem lowFive (acc : Nat) : field acc 0 5 = acc % 32 := by simp [field]

theorem freqLen_eq (acc : Nat) : freqLen acc = codeLen (acc % 32) := by
  rw [freqLen, lowFive, freqNbits_getD _ (Nat.mod_lt _ (by decide))]

theorem decodeFreq_f2 (h : acc % 4 = 2 * v) : decodeFreq acc = .f2 v ∧ freqLen acc = 2 := by
  have hlen : freqLen acc = 2 := by rw [freqLen_eq, codeLen, if_pos (by omega)]
  have hcount : freqValue.getD (acc % 32) 0 = v := by
    rw [freqValue_getD _ (by omega) (by omega), codeCount, if_pos (by omega)]
    omega
  simp only [decodeFreq, hlen, lowFive, hcount, and_self]

theorem decodeFreq_f3 (h : acc % 8 = 1 + 4 * (v - 2)) (hlo : 2 ≤ v) (hhi : v ≤ 3) :
    decodeFreq acc = .f3 v ∧ freqLen acc = 3 := by
  have hlen : freqLen acc = 3 := by rw [freqLen_eq, codeLen, if_neg (by omega), if_pos (by omega)]
  have hcount : freqValue.getD (acc % 32) 0 = v := by
    rw [freqValue_getD _ (by omega) (by omega), codeCount, if_neg (by omega), if_pos (by omega)]
    omega
  simp only [decodeFreq, hlen, lowFive, hcount, and_self]

theorem decodeFreq_f5 (h : acc % 32 = 3 + 8 * (v - 4)) (hlo : 4 ≤ v) (hhi : v ≤ 7) :
    decodeFreq acc = .f5 v ∧ freqLen acc = 5 := by
  have hlen : freqLen acc = 5 := by rw [freqLen_eq, codeLen, if_neg (by omega), if_neg (by omega), if_pos (by omega)]
  have hcount : freqValue.getD (acc % 32) 0 = v := by
    rw [freqValue_getD _ (by omega) (by omega), codeCount, if_neg (by omega), if_neg (by omega)]
    omega
  simp only [decodeFreq, hlen, lowFive, hcount, and_self]

/-- The two longer codes carry their count above the four low bits (42_header.md R240). -/
theorem decodeFreq_f8 (h : acc % 256 = 7 + 16 * (v - 8)) (hlo : 8 ≤ v) : decodeFreq acc = .f8 v ∧ freqLen acc = 8 := by
  have hlen : freqLen acc = 8 := by
    rw [freqLen_eq, codeLen, if_neg (by omega), if_neg (by omega), if_neg (by omega), if_pos (by omega)]
  have hcount : 8 + field acc 4 4 = v := by
    rw [field]
    omega
  simp [decodeFreq, hlen, hcount]

theorem decodeFreq_f14 (h : acc % 2 ^ 14 = 15 + 16 * (v - 24)) (hlo : 24 ≤ v) :
    decodeFreq acc = .f14 v ∧ freqLen acc = 14 := by
  have hlen : freqLen acc = 14 := by
    rw [freqLen_eq, codeLen, if_neg (by omega), if_neg (by omega), if_neg (by omega), if_neg (by omega)]
  have hcount : 24 + field acc 4 10 = v := by
    rw [field]
    omega
  simp [decodeFreq, hlen, hcount]

end Codes

/-- No header is longer than that of a V1 block. -/
theorem encode_block_length {i : Instr} (hctx : i.ctx = .block) (hwf : i.wf = true) : (encode i).length ≤ fetchLen := by
  cases i with
  | bvxEos => decide
  | bvxRaw n => exact (Laws.EncodeLength.bvxRaw n hwf).trans_le (show 8 ≤ 770 by decide)
  | bvxLzvn n p => exact (Laws.EncodeLength.bvxLzvn n p hwf).trans_le (show 12 ≤ 770 by decide)
  | bvx1 h => exact (Laws.EncodeLength.bvx1 h hwf).trans_le (show 770 ≤ 770 by decide)
  | bvx2 h => exact (Laws.EncodeLength.bvx2 h hwf).trans_le (show 32 ≤ 770 by decide)
  | _ => nomatch hctx

end Sys2Proof

namespace Sys2Proof.Machine

/-! ## An encoding in SRC -/

/-- Longer runs of SRC bytes begin with the shorter ones. -/
theorem srcBytes_starts {s : State} {n k p : Nat} {bs cs : List Byte} (hbs : srcBytes s n p = some bs)
    (hcs : srcBytes s k p = some cs) (hk : k ≤ n) : bs = cs ++ bs.drop k := by
  have hslice := srcBytes_slice (off := 0) hbs (by omega : 0 + k ≤ n)
  rw [Nat.add_zero, hcs, List.drop_zero] at hslice
  rw [Option.some_inj.1 hslice, List.take_append_drop]

/-- An LZVN opcode is decided by its first three bytes. -/
theorem decodeLzvn_take_three (bs : List Byte) (i : Instr) (h : decodeLzvn bs = .instr i) :
    decodeLzvn (bs.take 3) = .instr i := by
  cases bs with
  | nil => exact h
  | cons opc bs =>
    have hread : (opClass opc.toNat).readLen ≤ 3 := by cases opClass opc.toNat <;> decide
    rw [decodeLzvn] at h
    split at h
    · cases h
    · next hlen =>
      rw [List.length_cons] at hlen
      have hlen' : (opClass opc.toNat).readLen ≤ (bs.take 2).length + 1 := by
        rw [List.length_take]
        omega
      rw [List.take_succ_cons, decodeLzvn_class hlen', ← h]
      simp [List.take_take]

theorem step_of_decodeLzvn {s : State} {bs : List Byte} {i : Instr} (hrun : s.status = .running) (hready : s.phase = .ready)
    (hblk : s.blk = .lzvn) (hL : s.vnL = 0) (hM : s.vnM = 0) (hbs : opcodeBytes s = some bs)
    (hdec : decodeLzvn bs = .instr i) : step s = exec i s := by
  have hfetch : fetch s = .instr i := by simp [fetch, fetchReady, fetchDecoded, decode, hready, hblk, hL, hM, hbs, hdec]
  rw [step, if_pos hrun, runStep, hfetch]

/-- The whole window of an LZVN step lies in SRC (44_lzvn.md R321). -/
theorem lzvnWindow_exists (s : State) : ∃ bs, srcBytes s (vnSA s) s.srcPos = some bs := by
  refine Option.isSome_iff_exists.1 ((srcBytes_isSome_iff s _ s.srcPos).2 ?_)
  rw [vnSA, vnSrcLim]
  omega

theorem opcodeBytes_eq {s : State} {bs : List Byte} (h : srcBytes s (vnSA s) s.srcPos = some bs) :
    opcodeBytes s = some (bs.take 3) := by
  have hslice := srcBytes_slice (off := 0) (k := min 3 (vnSA s)) h (by omega)
  rw [Nat.add_zero, List.drop_zero] at hslice
  rw [opcodeBytes, hslice, ← srcBytes_length h, ← List.take_eq_take_min]

end Sys2Proof.Machine

namespace Sys2Proof.Proofs.Encoding
open Sys2Proof.Machine

/-! ## The statements of the family -/

/-- Settles O2: the opcode byte lies in its class, and each field is taken from where the encoder put it. -/
theorem lzvnDecodesItsEncoding : Obligations.LzvnDecodesItsEncoding := by
  unfold Obligations.LzvnDecodesItsEncoding
  exact fun _ rest => decodeLzvn_encode rest

/-- Settles O3: the magic selects the header, and its little-endian fields read back. -/
theorem blockHeaderDecodesItsEncoding : Obligations.BlockHeaderDecodesItsEncoding := by
  unfold Obligations.BlockHeaderDecodesItsEncoding
  exact fun _ rest => decodeBlock_encode rest

/-- Settles O4: the low bits of the code select its class, and the bits above the code do not reach them. -/
theorem frequencyCodeDecodesItsEncoding : Obligations.FrequencyCodeDecodesItsEncoding := by
  unfold Obligations.FrequencyCodeDecodesItsEncoding
  intro i n v x hcode hwf
  rcases hcode with ⟨rfl, rfl⟩ | ⟨rfl, rfl⟩ | ⟨rfl, rfl⟩ | ⟨rfl, rfl⟩ | ⟨rfl, rfl⟩ <;>
    simp only [Instr.wf, Bool.and_eq_true, decide_eq_true_eq] at hwf <;> rw [encode, leNat_leBytes, freqCode]
  · rw [if_pos hwf, ← and_assoc]
    exact ⟨decodeFreq_f2 (by omega), by omega⟩
  · rw [if_neg (by omega), if_pos hwf.2, ← and_assoc]
    exact ⟨decodeFreq_f3 (by omega) hwf.1 hwf.2, by omega⟩
  · rw [if_neg (by omega), if_neg (by omega), if_pos hwf.2, ← and_assoc]
    exact ⟨decodeFreq_f5 (by omega) hwf.1 hwf.2, by omega⟩
  · rw [if_neg (by omega), if_neg (by omega), if_neg (by omega), if_pos hwf.2, ← and_assoc]
    exact ⟨decodeFreq_f8 (by omega) hwf.1, by omega⟩
  · rw [if_neg (by omega), if_neg (by omega), if_neg (by omega), if_neg (by omega), if_pos hwf.2, ← and_assoc]
    exact ⟨decodeFreq_f14 (by omega) hwf.1, by omega⟩

/-- Settles O5: the classes cover all bytes, and each field lies in the range that its class gives it. -/
theorem decodedOpcodeReencodes : Obligations.DecodedOpcodeReencodes := by
  unfold Obligations.DecodedOpcodeReencodes
  intro opc b1 b2
  have hb : leNat [b1] < 256 := by simpa using leNat_lt [b1]
  have hw : leNat [b1, b2] < 2 ^ 16 := by simpa using leNat_lt [b1, b2]
  refine ⟨decodeOpcode_ctx opc _ _, decodeOpcode_wf opc hb hw, ?_⟩
  split
  · next heos =>
    subst heos
    rfl
  · next hne => exact encode_decodeOpcode opc b1 b2 hne

/-- Settles O7: the bytes that the fetch hands to the decoder begin with the encoding, or hold the three bytes of it that an
LZVN opcode is decided by. -/
theorem encodedInstructionInSourceRuns : Obligations.EncodedInstructionInSourceRuns := by
  unfold Obligations.EncodedInstructionInSourceRuns
  intro s i hwf hrun hready hsrc hplace
  rcases hplace with ⟨hctx, hblk, hin⟩ | ⟨hctx, hblk, hL, hM, hin⟩
  · obtain ⟨bs, hbs, -⟩ := blockBytes_exists s
    have hlong := encode_block_length hctx hwf
    have hstarts := srcBytes_starts hbs hsrc (le_min hlong (by rw [srcAvail]; omega))
    refine step_of_decodeBlock hrun hready hblk hbs ?_
    rw [hstarts]
    exact decodeBlock_encode _ hctx hwf
  · obtain ⟨bs, hbs⟩ := lzvnWindow_exists s
    have hstarts := srcBytes_starts hbs hsrc hin
    refine step_of_decodeLzvn hrun hready hblk hL hM (opcodeBytes_eq hbs) (decodeLzvn_take_three bs i ?_)
    rw [hstarts]
    exact decodeLzvn_encode _ hctx hwf

end Sys2Proof.Proofs.Encoding

/-! PROOFS. The LZVN opcodes (44_lzvn.md): what the literal and match copies append, the ways a copy sequence can go, and the
step of each opcode class; from that the statements of the family. -/

namespace Sys2Proof.Machine

/-! ## What a copy appends -/

/-- Literals and then a match, one copy after the other. -/
theorem Appended.append {old mid new : Memory} {p l m d : Nat} {lit lit' : Nat → Option Byte}
    (h1 : Appended old mid p l 0 0 lit) (h2 : Appended mid new (p + l) 0 m d lit') : Appended old new p l m d lit := by
  obtain ⟨hbelow, hlit, -, -⟩ := h1
  obtain ⟨hkept, -, hmatch, habove⟩ := h2
  refine ⟨fun q hq => ?_, fun j hj => ?_, hmatch, habove⟩
  · rw [hkept q (by omega), hbelow q hq]
  · rw [hkept _ (by omega), hlit j hj]

/-- Appended bytes that have values leave DST filled below the cursor. -/
theorem Appended.filled {old new : Memory} {p l : Nat} {lit : Nat → Option Byte} (h : Appended old new p l 0 0 lit)
    (hold : ∀ q < p, memRead .dst old q ≠ none) (hlit : ∀ j < l, lit j ≠ none) :
    ∀ q < p + l, memRead .dst new q ≠ none := by
  obtain ⟨hbelow, hbytes, -, -⟩ := h
  intro q hq
  by_cases hqp : q < p
  · rw [hbelow q hqp]
    exact hold q hqp
  · obtain ⟨j, rfl⟩ := Nat.exists_eq_add_of_le (not_lt.1 hqp)
    rw [hbytes j (by omega)]
    exact hlit j (by omega)

/-- Where no literals are appended, it does not matter which. -/
theorem Appended.withLiterals {old new : Memory} {p m d : Nat} {lit : Nat → Option Byte} (h : Appended old new p 0 m d lit)
    (lit' : Nat → Option Byte) : Appended old new p 0 m d lit' := by
  obtain ⟨hbelow, -, hmatch, habove⟩ := h
  exact ⟨hbelow, fun j hj => absurd hj j.not_lt_zero, hmatch, habove⟩

/-- Where no match is appended, it does not matter at which distance. -/
theorem Appended.withDistance {old new : Memory} {p l d : Nat} {lit : Nat → Option Byte} (h : Appended old new p l 0 d lit)
    (d' : Nat) : Appended old new p l 0 d' lit := by
  obtain ⟨hbelow, hlit, -, habove⟩ := h
  exact ⟨hbelow, hlit, fun j hj => absurd hj j.not_lt_zero, habove⟩

theorem srcByte_ne_none {s : State} {p : Nat} (h : p < s.srcLen) : srcByte s p ≠ none :=
  Option.isSome_iff_ne_none.1 ((srcByte_isSome_iff s p).2 h)

/-- `n` literal bytes, `off` bytes behind `src_pos`, are appended and consumed (R326). -/
theorem vnLiterals_appended {off n : Nat} {s : State} (hs : n = 0 ∨ s.srcPos + off + n ≤ s.srcLen)
    (hd : n = 0 ∨ s.dstPos + n ≤ s.dstCap) :
    ∃ mem, vnLiterals off n s = .ok ()
        { s with
          srcPos := s.srcPos + (off + n), vnPayRem := s.vnPayRem - (off + n), dstPos := s.dstPos + n,
          vnRawRem := s.vnRawRem - n, dst := mem, draws := s.draws + 1 } ∧
      Appended s.dst mem s.dstPos n 0 0 (fun j => srcByte s (s.srcPos + off + j)) := by
  obtain ⟨mem, hrun, hbelow, hbytes, habove⟩ := vnLiterals_runs hs hd
  exact ⟨mem, hrun, hbelow, hbytes, fun j hj => absurd hj j.not_lt_zero, habove⟩

/-- `n` match bytes at the current distance are appended (R327). -/
theorem vnMatch_appended {n : Nat} {s : State} (h0 : s.vnD ≠ 0) (hle : s.vnD ≤ s.dstPos)
    (hd : n = 0 ∨ s.dstPos + n ≤ s.dstCap) (hfilled : DstFilled s) :
    ∃ mem, vnMatch n s = .ok ()
        { s with dstPos := s.dstPos + n, vnRawRem := s.vnRawRem - n, dst := mem, draws := s.draws + 1 } ∧
      Appended s.dst mem s.dstPos 0 n s.vnD (fun _ => none) := by
  obtain ⟨mem, hrun, hbelow, hbytes, -, habove⟩ := vnMatch_runs h0 hle hd hfilled
  exact ⟨mem, hrun, hbelow, fun j hj => absurd hj j.not_lt_zero, hbytes, habove⟩

/-! ## The copy sequences -/

/-- `da` bytes have room in DST. -/
abbrev HasRoom (da : Nat) (s : State) : Prop := da = 0 ∨ s.dstPos + da ≤ s.dstCap

/-- `n` literals behind `k` opcode bytes are in SRC. -/
abbrev HasLiterals (k n : Nat) (s : State) : Prop := n = 0 ∨ s.srcPos + k + n ≤ s.srcLen

section Sequences
variable {k l m da : Nat} {s : State}

theorem copyMatchOnly_fits (h0 : s.vnD ≠ 0) (hle : s.vnD ≤ s.dstPos) (hd : HasRoom da s) (hfilled : DstFilled s)
    (hm : m ≤ da) :
    ∃ mem, copyMatchOnly m da s = .ok .cont
        { s with dstPos := s.dstPos + m, vnRawRem := s.vnRawRem - m, dst := mem, draws := s.draws + 1 } ∧
      Appended s.dst mem s.dstPos 0 m s.vnD (fun _ => none) := by
  obtain ⟨mem, hrun, happ⟩ := vnMatch_appended (n := m) h0 hle (by omega) hfilled
  exact ⟨mem, by rw [copyMatchOnly, if_pos hm, hrun, Res.bind_ok], happ⟩

theorem copyMatchOnly_cut (h0 : s.vnD ≠ 0) (hle : s.vnD ≤ s.dstPos) (hd : HasRoom da s) (hfilled : DstFilled s)
    (hm : da < m) :
    ∃ mem, copyMatchOnly m da s = .ok .dst
        { s with
          dstPos := s.dstPos + da, vnRawRem := s.vnRawRem - da, vnL := 0, vnM := m - da, dst := mem,
          draws := s.draws + 1 } ∧
      Appended s.dst mem s.dstPos 0 da s.vnD (fun _ => none) := by
  obtain ⟨mem, hrun, happ⟩ := vnMatch_appended h0 hle hd hfilled
  exact ⟨mem, by rw [copyMatchOnly, if_neg hm.not_ge, hrun, Res.bind_ok], happ⟩

theorem copyLiteral_fits {sa : Nat} (hsa : k + l < sa) (hs : HasLiterals k l s) (hd : HasRoom da s) (hl : l ≤ da) :
    ∃ mem, copyLiteral k l sa da s = .ok .cont
        { s with
          srcPos := s.srcPos + (k + l), vnPayRem := s.vnPayRem - (k + l), dstPos := s.dstPos + l,
          vnRawRem := s.vnRawRem - l, dst := mem, draws := s.draws + 1 } ∧
      Appended s.dst mem s.dstPos l 0 0 (fun j => srcByte s (s.srcPos + k + j)) := by
  obtain ⟨mem, hrun, happ⟩ := vnLiterals_appended hs (by omega)
  exact ⟨mem, by rw [copyLiteral, if_neg hsa.not_ge, if_pos hl, hrun, Res.bind_ok], happ⟩

theorem copyLiteral_cut {sa : Nat} (hsa : k + l < sa) (hs : HasLiterals k l s) (hd : HasRoom da s) (hl : da < l) :
    ∃ mem, copyLiteral k l sa da s = .ok .dst
        { s with
          srcPos := s.srcPos + (k + da), vnPayRem := s.vnPayRem - (k + da), dstPos := s.dstPos + da,
          vnRawRem := s.vnRawRem - da, vnL := l - da, vnM := 0, dst := mem, draws := s.draws + 1 } ∧
      Appended s.dst mem s.dstPos da 0 0 (fun j => srcByte s (s.srcPos + k + j)) := by
  obtain ⟨mem, hrun, happ⟩ := vnLiterals_appended (off := k) (by omega) hd
  exact ⟨mem, by rw [copyLiteral, if_neg hsa.not_ge, if_neg hl.not_ge, hrun, Res.bind_ok], happ⟩

theorem copyLM_cutLiterals (hs : HasLiterals k l s) (hd : HasRoom da s) (hl : da < l) :
    ∃ mem, copyLM k l m da s = .ok .dst
        { s with
          srcPos := s.srcPos + (k + da), vnPayRem := s.vnPayRem - (k + da), dstPos := s.dstPos + da,
          vnRawRem := s.vnRawRem - da, vnL := l - da, vnM := m, dst := mem, draws := s.draws + 1 } ∧
      Appended s.dst mem s.dstPos da 0 0 (fun j => srcByte s (s.srcPos + k + j)) := by
  obtain ⟨mem, hrun, happ⟩ := vnLiterals_appended (off := k) (by omega) hd
  exact ⟨mem, by rw [copyLM, if_neg hl.not_ge, hrun, Res.bind_ok], happ⟩

theorem copyLM_badDistance (hs : HasLiterals k l s) (hd : HasRoom da s) (hl : l ≤ da)
    (hbad : s.vnD = 0 ∨ s.dstPos + l < s.vnD) :
    ∃ mem, copyLM k l m da s = .ok .invalidD
        { s with
          srcPos := s.srcPos + (k + l), vnPayRem := s.vnPayRem - (k + l), dstPos := s.dstPos + l,
          vnRawRem := s.vnRawRem - l, dst := mem, draws := s.draws + 1 } ∧
      Appended s.dst mem s.dstPos l 0 0 (fun j => srcByte s (s.srcPos + k + j)) := by
  obtain ⟨mem, hrun, happ⟩ := vnLiterals_appended hs (by omega)
  exact ⟨mem, by rw [copyLM, if_pos hl, hrun, Res.bind_ok, if_pos (by simpa using hbad.symm)], happ⟩

/-- The literals fit and the distance is good: what is left is a match in the rest of the room. -/
theorem copyLM_match (hs : HasLiterals k l s) (hd : HasRoom da s) (hl : l ≤ da) (h0 : s.vnD ≠ 0)
    (hle : s.vnD ≤ s.dstPos + l) (hfilled : DstFilled s) :
    ∃ mem s1, copyLM k l m da s = copyMatchOnly m (da - l) s1 ∧
      s1 = { s with
              srcPos := s.srcPos + (k + l), vnPayRem := s.vnPayRem - (k + l), dstPos := s.dstPos + l,
              vnRawRem := s.vnRawRem - l, dst := mem, draws := s.draws + 1 } ∧
      (s1.vnD ≠ 0 ∧ s1.vnD ≤ s1.dstPos ∧ HasRoom (da - l) s1 ∧ DstFilled s1) ∧
      Appended s.dst mem s.dstPos l 0 0 (fun j => srcByte s (s.srcPos + k + j)) := by
  obtain ⟨mem, hrun, happ⟩ := vnLiterals_appended hs (by omega)
  refine ⟨mem, _, ?_, rfl, ⟨h0, hle, ?_, happ.filled hfilled fun j hj => srcByte_ne_none (by omega)⟩, happ⟩
  · rw [copyLM, if_pos hl, hrun, Res.bind_ok, if_neg (by simp only; omega)]
  · simp only [HasRoom]
    omega

theorem copyLM_fits (hs : HasLiterals k l s) (hd : HasRoom da s) (hlm : l + m ≤ da) (h0 : s.vnD ≠ 0)
    (hle : s.vnD ≤ s.dstPos + l) (hfilled : DstFilled s) :
    ∃ mem n, copyLM k l m da s = .ok .cont
        { s with
          srcPos := s.srcPos + (k + l), vnPayRem := s.vnPayRem - (k + l), dstPos := s.dstPos + l + m,
          vnRawRem := s.vnRawRem - l - m, dst := mem, draws := n } ∧
      Appended s.dst mem s.dstPos l m s.vnD (fun j => srcByte s (s.srcPos + k + j)) := by
  obtain ⟨mid, s1, hrun, hs1, ⟨h01, hle1, hd1, hfilled1⟩, happ⟩ := copyLM_match (m := m) hs hd (by omega) h0 hle hfilled
  obtain ⟨mem, hmatch, happ1⟩ := copyMatchOnly_fits (m := m) h01 hle1 hd1 hfilled1 (by omega)
  subst hs1
  exact ⟨mem, _, hrun.trans hmatch, happ.append happ1⟩

theorem copyLM_cutMatch (hs : HasLiterals k l s) (hd : HasRoom da s) (hl : l ≤ da) (hlm : da < l + m) (h0 : s.vnD ≠ 0)
    (hle : s.vnD ≤ s.dstPos + l) (hfilled : DstFilled s) :
    ∃ mem n, copyLM k l m da s = .ok .dst
        { s with
          srcPos := s.srcPos + (k + l), vnPayRem := s.vnPayRem - (k + l), dstPos := s.dstPos + da,
          vnRawRem := s.vnRawRem - da, vnL := 0, vnM := m - (da - l), dst := mem, draws := n } ∧
      Appended s.dst mem s.dstPos l (da - l) s.vnD (fun j => srcByte s (s.srcPos + k + j)) := by
  obtain ⟨mid, s1, hrun, hs1, ⟨h01, hle1, hd1, hfilled1⟩, happ⟩ := copyLM_match (m := m) hs hd hl h0 hle hfilled
  obtain ⟨mem, hmatch, happ1⟩ := copyMatchOnly_cut (m := m) h01 hle1 hd1 hfilled1 (by omega)
  subst hs1
  refine ⟨mem, s.draws + 1 + 1, hrun.trans (hmatch.trans ?_), happ.append happ1⟩
  simp only [show s.dstPos + l + (da - l) = s.dstPos + da by omega, show s.vnRawRem - l - (da - l) = s.vnRawRem - da by omega]

end Sequences

/-! ## The windows -/

theorem hasRoom_vnDA (s : State) : HasRoom (vnDA s) s := by
  rw [HasRoom, vnDA, vnDstLim]
  omega

theorem hasLiterals_of_lt_vnSA {k l : Nat} {s : State} (h : k + l < vnSA s) : HasLiterals k l s := by
  rw [vnSA, vnSrcLim] at h
  exact .inr (by omega)

/-! ## The accounting -/

/-- A step whose copy is cut stops by the count that is left when the window is full (R360). -/
theorem vnFinish_cut {s t : State} {r : Res VnStop} {o : Host.Outcome State Fault Refusal} (ho : o = (vnFinish r).out)
    (hr : r = .ok .dst t) (hraw : t.vnRawRem = s.vnRawRem - vnDA s) :
    (s.vnRawRem ≤ vnDA s → o = .next { t with status := .malformed, cause := some .lzvnAccounting }) ∧
    (vnDA s < s.vnRawRem → o = .next { t with status := .dstFull, phase := .ready }) := by
  subst ho hr
  rw [vnFinish_ok, account]
  refine ⟨fun hle => ?_, fun hlt => ?_⟩
  · rw [if_pos (by omega), Res.out_ended, raiseMalformed]
  · rw [if_neg (by omega), Res.out_ended, stopRun]

/-- A window that is too short stops the step before anything is written (R323, R360). -/
theorem vnFinish_src (s : State) :
    (srcAvail s < s.vnPayRem → (vnFinish (.ok .src s)).out = .next { s with status := .srcEmpty, phase := .ready }) ∧
    (s.vnPayRem ≤ srcAvail s →
      (vnFinish (.ok .src s)).out = .next { s with status := .malformed, cause := some .lzvnAccounting }) := by
  rw [vnFinish_ok]
  refine ⟨fun hshort => ?_, fun hall => ?_⟩
  · rw [account, if_pos hshort, Res.out_ended, stopRun]
  · rw [account, if_neg hall.not_gt, Res.out_ended, raiseMalformed]

/-! ## The opcode classes -/

section Classes
variable {s : State} {i : Instr} {k l m d : Nat}

/-- A literal-and-match opcode sets its distance and copies (R330 to R333). -/
theorem exec_literalMatch (hi : IsLiteralMatch s i k l m d) :
    exec i s = (vnFinish (if vnSA s ≤ k + l then .ok .src s else copyLM k l m (vnDA s) { s with vnD := d })).out := by
  rcases hi with ⟨rfl, rfl⟩ | ⟨rfl, rfl⟩ | ⟨rfl, rfl⟩ | ⟨rfl, rfl, rfl⟩ <;> rfl

theorem exec_matchOnly (hi : IsMatchOnly i k m) : exec i s = (vnFinish (matchOpcode k m s)).out := by
  rcases hi with ⟨rfl, rfl⟩ | ⟨rfl, rfl⟩ <;> rfl

/-- The test of `lrg_l` that its length byte is there adds nothing to that of the copy. -/
theorem exec_literalOnly (hi : IsLiteralOnly i k l) :
    exec i s = (vnFinish (copyLiteral k l (vnSA s) (vnDA s) s)).out := by
  rcases hi with ⟨rfl, rfl⟩ | ⟨rfl, rfl⟩
  · rfl
  · show (vnFinish (if vnSA s ≤ 2 then .ok .src s else copyLiteral 2 l (vnSA s) (vnDA s) s)).out = _
    split
    · rw [copyLiteral, if_pos (by omega)]
    · rfl

theorem exec_literalMatch_long (hi : IsLiteralMatch s i k l m d) (h : k + l < vnSA s) :
    exec i s = (vnFinish (copyLM k l m (vnDA s) { s with vnD := d })).out := by
  rw [exec_literalMatch hi, if_neg h.not_ge]

/-- A match-only opcode is consumed before its distance is looked at (R334, R335). -/
theorem matchOpcode_long (h : k < vnSA s) :
    matchOpcode k m s =
      if s.vnD = 0 then .ok .invalidD { s with srcPos := s.srcPos + k, vnPayRem := s.vnPayRem - k }
      else copyMatchOnly m (vnDA s) { s with srcPos := s.srcPos + k, vnPayRem := s.vnPayRem - k } := by
  rw [matchOpcode, if_neg h.not_ge]
  rfl

/-- A window too short for the opcode and its literals. -/
theorem exec_short
    (h : (∃ k l m d, IsLiteralMatch s i k l m d ∧ vnSA s ≤ k + l) ∨ (∃ k m, IsMatchOnly i k m ∧ vnSA s ≤ k) ∨
      (∃ k l, IsLiteralOnly i k l ∧ vnSA s ≤ k + l) ∨ (∃ opc, i = .nop opc ∧ vnSA s ≤ 1) ∨ (i = .eos ∧ vnSA s < 8)) :
    exec i s = (vnFinish (.ok .src s)).out := by
  rcases h with ⟨k, l, m, d, hi, h⟩ | ⟨k, m, hi, h⟩ | ⟨k, l, hi, h⟩ | ⟨opc, rfl, h⟩ | ⟨rfl, h⟩
  · rw [exec_literalMatch hi, if_pos h]
  · rw [exec_matchOnly hi, matchOpcode, if_pos h]
  · rw [exec_literalOnly hi, copyLiteral, if_pos h]
  · rw [exec, execNop, if_pos h]
  · rw [exec, execEos, if_pos h]

end Classes

/-- Bytes that do not hold an opcode and its operands give no instruction (R323). -/
theorem step_opcodeShort {s : State} (hrun : s.status = .running) (hready : s.phase = .ready) (hblk : s.blk = .lzvn)
    (hL : s.vnL = 0) (hM : s.vnM = 0)
    (h : vnSA s = 0 ∨ ∃ opc, srcByte s s.srcPos = some opc ∧ vnSA s < (opClass opc.toNat).readLen) :
    step s = (vnFinish (.ok .src s)).out := by
  obtain ⟨bs, hbs⟩ := lzvnWindow_exists s
  have hlen := srcBytes_length hbs
  have hdec : decodeLzvn (bs.take 3) = .reject .opcodeShort := by
    cases bs with
    | nil => rfl
    | cons b bs =>
      rw [List.length_cons] at hlen
      rcases h with h | ⟨opc, hopc, h⟩
      · omega
      · have hfirst := srcBytes_get hbs 0 (by omega)
        rw [Nat.add_zero, hopc, List.getElem?_cons_zero, Option.some_inj] at hfirst
        subst hfirst
        rw [List.take_succ_cons, decodeLzvn, if_pos (by rw [List.length_cons, List.length_take]; omega)]
  have hfetch : fetch s = .reject .opcodeShort := by
    simp [fetch, fetchReady, fetchDecoded, decode, hready, hblk, hL, hM, opcodeBytes_eq hbs, hdec]
  rw [step, if_pos hrun, runStep, hfetch]
  rfl

/-- A remainder that fits is copied as an opcode of no bytes would be (R324). -/
theorem vnResume_fits {s : State} (hpending : s.vnL ≠ 0 ∨ s.vnM ≠ 0) (hfilled : DstFilled s)
    (hsa : s.vnL ≠ 0 → s.vnL < vnSA s) (hda : s.vnL + s.vnM ≤ vnDA s)
    (hdist : s.vnM ≠ 0 → s.vnD ≠ 0 ∧ s.vnD ≤ s.dstPos + s.vnL) :
    ∃ mem n, vnResume s = .ok .cont
        { s with
          srcPos := s.srcPos + s.vnL, vnPayRem := s.vnPayRem - s.vnL, dstPos := s.dstPos + s.vnL + s.vnM,
          vnRawRem := s.vnRawRem - s.vnL - s.vnM, vnL := 0, vnM := 0, dst := mem, draws := n } ∧
      Appended s.dst mem s.dstPos s.vnL s.vnM s.vnD (fun j => srcByte s (s.srcPos + j)) := by
  have hlits (hL : s.vnL ≠ 0) : 0 + s.vnL < vnSA s := by
    rw [Nat.zero_add]
    exact hsa hL
  rw [vnResume]
  by_cases hM : s.vnM = 0
  · have hL : s.vnL ≠ 0 := by omega
    obtain ⟨mem, hrun, happ⟩ := copyLiteral_fits (s := { s with vnL := 0, vnM := 0 }) (hlits hL)
      (hasLiterals_of_lt_vnSA (hlits hL)) (hasRoom_vnDA s) (by omega)
    simp only [Nat.zero_add] at hrun
    rw [hM]
    exact ⟨mem, s.draws + 1, by rw [if_pos rfl, hrun]; rfl, happ.withDistance _⟩
  · obtain ⟨h0, hle⟩ := hdist hM
    by_cases hL : s.vnL = 0
    · rw [hL] at hle hda ⊢
      rw [Nat.zero_add] at hda
      obtain ⟨mem, hrun, happ⟩ := copyMatchOnly_fits (s := { s with vnL := 0, vnM := 0 }) h0 hle (hasRoom_vnDA s) hfilled hda
      exact ⟨mem, s.draws + 1, by rw [if_neg hM, if_pos rfl, hrun]; rfl, happ.withLiterals _⟩
    · obtain ⟨mem, n, hrun, happ⟩ := copyLM_fits (s := { s with vnL := 0, vnM := 0 }) (hasLiterals_of_lt_vnSA (hlits hL))
        (hasRoom_vnDA s) hda h0 hle hfilled
      simp only [Nat.zero_add] at hrun
      exact ⟨mem, n, by rw [if_neg hM, if_neg hL, hrun], happ⟩

theorem step_vnRemainder {s : State} (hrun : s.status = .running) (hready : s.phase = .ready) (hblk : s.blk = .lzvn)
    (hpending : s.vnL ≠ 0 ∨ s.vnM ≠ 0) : step s = (vnFinish (vnResume s)).out := by
  have hfetch : fetch s = .action .vnRemainder := by simp [fetch, fetchReady, hready, hblk, hpending]
  rw [step, if_pos hrun, runStep, hfetch]
  rfl

end Sys2Proof.Machine

namespace Sys2Proof.Proofs.Lzvn
open Sys2Proof.Machine

/-! ## The statements of the family -/

/-- Settles O14: the literals and then the match are appended, and the accounting goes on. -/
theorem literalAndMatchOpcodesComplete : Obligations.LiteralAndMatchOpcodesComplete := by
  unfold Obligations.LiteralAndMatchOpcodesComplete
  intro s i k l m d hi hfilled hsa hda h0 hle
  obtain ⟨mem, n, hrun, happ⟩ := copyLM_fits (s := { s with vnD := d }) (hasLiterals_of_lt_vnSA hsa) (hasRoom_vnDA s) hda h0 hle
    hfilled
  exact ⟨mem, n, by rw [exec_literalMatch_long hi hsa, hrun]; rfl, happ⟩

/-- Settles O15: the opcode is consumed, and then its match is appended. -/
theorem matchOpcodesComplete : Obligations.MatchOpcodesComplete := by
  unfold Obligations.MatchOpcodesComplete
  intro s i k m hi hfilled hsa hda h0 hle
  obtain ⟨mem, hrun, happ⟩ := copyMatchOnly_fits (s := { s with srcPos := s.srcPos + k, vnPayRem := s.vnPayRem - k }) h0 hle
    (hasRoom_vnDA s) hfilled hda
  exact ⟨mem, _, by rw [exec_matchOnly hi, matchOpcode_long hsa, if_neg h0, hrun]; rfl, happ⟩

/-- Settles O16: the literals are appended, and the accounting goes on. -/
theorem literalOpcodesComplete : Obligations.LiteralOpcodesComplete := by
  unfold Obligations.LiteralOpcodesComplete
  intro s i k l hi hsa hda
  obtain ⟨mem, hrun, happ⟩ := copyLiteral_fits hsa (hasLiterals_of_lt_vnSA hsa) (hasRoom_vnDA s) hda
  exact ⟨mem, _, by rw [exec_literalOnly hi, hrun]; rfl, happ⟩

/-- Settles O17: `nop` takes one byte, and the accounting goes on. -/
theorem nopConsumesOneByte : Obligations.NopConsumesOneByte := by
  unfold Obligations.NopConsumesOneByte
  intro s opc hsa
  rw [exec, execNop, if_neg hsa.not_ge]
  rfl

/-- Settles O18: the accounting sees the counts after the 8 bytes are taken. -/
theorem lzvnEndOfStream : Obligations.LzvnEndOfStream := by
  unfold Obligations.LzvnEndOfStream
  intro s hsa
  have hpay : 8 ≤ s.vnPayRem := by
    rw [vnSA, vnSrcLim] at hsa
    omega
  rw [exec, execEos, if_neg hsa.not_gt, vnFinish_ok, account]
  refine ⟨fun hpay8 hraw => ?_, fun hnot => ?_⟩
  · rw [if_pos (by simp [hpay8, hraw])]
    simp [vnTake, hpay8, Res.out]
  · rw [if_neg (by simp only [vnTake_vnPayRem, vnTake_vnRawRem]; omega)]
    rfl

/-- Settles O20: too short a window leaves the state as it was, whether or not an opcode was decoded. -/
theorem shortSourceWindowStops : Obligations.ShortSourceWindowStops := by
  unfold Obligations.ShortSourceWindowStops
  refine ⟨fun s i h => ?_, fun s hrun hready hblk hL hM h => ?_⟩
  · rw [exec_short h]
    exact vnFinish_src s
  · rw [step_opcodeShort hrun hready hblk hL hM h]
    have hsrc := vnFinish_src s
    rwa [← hready] at hsrc

/-- Settles O21: the distance check comes after the literals, and after the bytes of a match-only opcode. -/
theorem lzvnDistanceCheckRaises : Obligations.LzvnDistanceCheckRaises := by
  unfold Obligations.LzvnDistanceCheckRaises
  refine ⟨fun s i k l m d hi hsa hda hbad => ?_, fun s i k m hi hsa h0 => ?_⟩
  · obtain ⟨mem, hrun, happ⟩ := copyLM_badDistance (m := m) (s := { s with vnD := d }) (hasLiterals_of_lt_vnSA hsa)
      (hasRoom_vnDA s) hda hbad
    exact ⟨mem, _, by rw [exec_literalMatch_long hi hsa, hrun]; rfl, happ⟩
  · rw [exec_matchOnly hi, matchOpcode_long hsa, if_pos h0]
    rfl

/-- Settles O22: whichever copy is cut, the window is full and the accounting decides by the count that is left. -/
theorem fullWindowKeepsTheRemainder : Obligations.FullWindowKeepsTheRemainder := by
  unfold Obligations.FullWindowKeepsTheRemainder
  refine ⟨fun s i k l m d hi hsa hda => ?_, fun s i k l m d hi hfilled hsa hda hcut h0 hle => ?_⟩
  · rcases hi with hi | ⟨hi, rfl, rfl⟩
    · obtain ⟨mem, hrun, happ⟩ := copyLM_cutLiterals (m := m) (s := { s with vnD := d }) (hasLiterals_of_lt_vnSA hsa)
        (hasRoom_vnDA s) hda
      exact ⟨mem, s.draws + 1, _, rfl, happ, vnFinish_cut (exec_literalMatch_long hi hsa) hrun rfl⟩
    · obtain ⟨mem, hrun, happ⟩ := copyLiteral_cut hsa (hasLiterals_of_lt_vnSA hsa) (hasRoom_vnDA s) hda
      exact ⟨mem, s.draws + 1, _, rfl, happ, vnFinish_cut (exec_literalOnly hi) hrun rfl⟩
  · rcases hi with hi | ⟨hi, rfl, rfl⟩
    · obtain ⟨mem, n, hrun, happ⟩ := copyLM_cutMatch (s := { s with vnD := d }) (hasLiterals_of_lt_vnSA hsa) (hasRoom_vnDA s)
        hda hcut h0 hle hfilled
      exact ⟨mem, n, _, rfl, happ, vnFinish_cut (exec_literalMatch_long hi hsa) hrun rfl⟩
    · obtain ⟨mem, hrun, happ⟩ := copyMatchOnly_cut (m := m) (s := { s with srcPos := s.srcPos + k, vnPayRem := s.vnPayRem - k })
        h0 hle (hasRoom_vnDA s) hfilled (by omega)
      have hmatch := matchOpcode_long (m := m) (s := s) (k := k) hsa
      rw [if_neg h0] at hmatch
      exact ⟨mem, s.draws + 1, _, rfl, happ.withLiterals _, vnFinish_cut (exec_matchOnly hi) (hmatch.trans hrun) rfl⟩

/-- Settles O23: the remainder is copied as an opcode of no bytes. -/
theorem pendingRemainderCompletes : Obligations.PendingRemainderCompletes := by
  unfold Obligations.PendingRemainderCompletes
  intro s hrun hready hblk hpending hfilled hsa hda hdist
  obtain ⟨mem, n, hresume, happ⟩ := vnResume_fits hpending hfilled hsa hda hdist
  exact ⟨mem, n, by rw [step_vnRemainder hrun hready hblk hpending, hresume]; rfl, happ⟩

end Sys2Proof.Proofs.Lzvn

/-! PROOFS. The dispatcher's instructions (45_dispatcher.md, 42_header.md): which instruction each phase runs, and the steps
that read a RAW, an LZVN and a V2 header; from that the statements of the family. -/

namespace Sys2Proof.Machine

/-! ## The instruction that a phase runs -/

/-- A running core executes the instruction it has fetched, and nothing is added around it (R398). -/
theorem step_of_fetch_instr {s : State} {i : Instr} (hrun : s.status = .running) (hfetch : fetch s = .instr i) :
    step s = exec i s := by
  rw [step, if_pos hrun, runStep, hfetch]

theorem step_of_fetch_action {s : State} {a : Action} (hrun : s.status = .running) (hfetch : fetch s = .action a) :
    step s = (runAction a s).out := by
  rw [step, if_pos hrun, runStep, hfetch]

theorem fetch_freqs {s : State} {r : FreqReader} (hphase : s.phase = .freqs) (hr : freqWindow s = some r) :
    fetch s = .instr (decodeFreq r.acc) := by
  simp [fetch, hphase, hr]

theorem fetch_lits {s : State} (hphase : s.phase = .lits) (hidx : s.litIdx < litGoal s) : fetch s = .instr .litSym := by
  simp [fetch, hphase, hidx]

theorem fetchTriplet_next {s : State} (hsrc : sourceShort s = false) (hL : s.L = 0) (hM : s.M = 0) (hrem : s.nRem ≠ 0) :
    fetchTriplet s = .instr .lVal := by
  simp [fetchTriplet, hsrc, hL, hM, hrem]

theorem fetch_triplet {s : State} (hready : s.phase = .ready) (hblk : s.blk = .v1 ∨ s.blk = .v2) :
    fetch s = fetchTriplet s := by
  rcases hblk with hb | hb <;> simp [fetch, fetchReady, hready, hb]

/-! ## Headers -/

section Headers
variable {s : State}

theorem exec_bvxRaw (n : Nat) (h : 8 ≤ srcAvail s) :
    exec (.bvxRaw n) s = .next { s with rawRem := n, srcPos := s.srcPos + 8, blk := .raw } :=
  if_neg h.not_gt

theorem exec_bvxLzvn (n p : Nat) (h : 12 ≤ srcAvail s) :
    exec (.bvxLzvn n p) s = .next
      { s with vnRawRem := n, vnPayRem := p, vnD := 0, vnL := 0, vnM := 0, srcPos := s.srcPos + 12, blk := .lzvn } :=
  if_neg h.not_gt

section V2
variable (h : V2Header) (hfixed : 32 ≤ srcAvail s)
include hfixed

/-- A header length that does not cover the fixed part is Malformed (42_header.md R225). -/
theorem exec_bvx2_badSize (hsize : h.headerSize < 32) :
    exec (.bvx2 h) s = .next
      { s with magic := magicV2, hdr := headerOfV2 h, status := .malformed, cause := some .hdrV2Freq } :=
  (if_neg hfixed.not_gt).trans (if_pos hsize)

theorem exec_bvx2_short (hsize : 32 ≤ h.headerSize) (hshort : srcAvail s < h.headerSize) :
    exec (.bvx2 h) s = .next { s with status := .srcEmpty, phase := .ready } :=
  (if_neg hfixed.not_gt).trans ((if_neg hsize.not_gt).trans (if_pos hshort))

/-- A header without a frequency stream has 360 zero counts (42_header.md R239). -/
theorem exec_bvx2_noStream (hsize : h.headerSize = 32) :
    exec (.bvx2 h) s = .next
      { s with magic := magicV2, hdr := withFreqs (headerOfV2 h) (List.replicate 360 0), phase := .setup } :=
  (if_neg hfixed.not_gt).trans ((if_neg hsize.not_lt).trans ((if_neg (by omega)).trans (if_pos hsize)))

theorem exec_bvx2_stream (hsize : 32 < h.headerSize) (hall : h.headerSize ≤ srcAvail s) :
    exec (.bvx2 h) s = .next
      { s with
        magic := magicV2, hdr := headerOfV2 h, freqs := [], freq := ⟨0, 0, s.srcPos + 32, s.srcPos + h.headerSize⟩,
        phase := .freqs } :=
  (if_neg hfixed.not_gt).trans ((if_neg hsize.not_gt).trans ((if_neg hall.not_gt).trans (if_neg hsize.ne')))

end V2
end Headers

/-- A block start with the V2 magic and a whole fixed part runs the header that the bytes stand for. -/
theorem step_v2Header {s : State} (hrun : s.status = .running) (hready : s.phase = .ready) (hblk : s.blk = .none)
    (hall : 32 ≤ srcAvail s) (hmagic : srcRead s s.srcPos 4 = some magicV2) :
    ∃ nRaw v0 v1 v2, step s = exec (.bvx2 (unpackV2 nRaw v0 v1 v2)) s ∧ srcRead s (s.srcPos + 4) 4 = some nRaw ∧
      srcRead s (s.srcPos + 8) 8 = some v0 ∧ srcRead s (s.srcPos + 16) 8 = some v1 ∧
      srcRead s (s.srcPos + 24) 8 = some v2 := by
  obtain ⟨bs, hbs, hlen⟩ := blockBytes_exists s
  have hlong : 32 ≤ bs.length := by omega
  have word (off k : Nat) (hk : off + k ≤ 32) : srcRead s (s.srcPos + off) k = some (leAt bs off k) := by
    refine srcRead_eq_leAt hbs ?_
    rw [← srcBytes_length hbs]
    omega
  have hdec := decodeBlock_bvx2 hlong (leAt_blockBytes_magic hbs (by omega) hmagic)
  exact ⟨_, _, _, _, step_of_decodeBlock hrun hready hblk hbs hdec, word 4 4 (by decide), word 8 8 (by decide),
    word 16 8 (by decide), word 24 8 (by decide)⟩

end Sys2Proof.Machine

namespace Sys2Proof.Proofs.Dispatcher
open Sys2Proof.Machine

/-! ## The statements of the family -/

/-- Settles O1: the decoder evaluates each word. -/
theorem writtenWordsDecode : Obligations.WrittenWordsDecode := by
  unfold Obligations.WrittenWordsDecode
  decide

/-- Settles O6: the phase, and at a step boundary the block, select the context that the bytes are decoded in. -/
theorem stepRunsTheDecodedInstruction : Obligations.StepRunsTheDecodedInstruction := by
  unfold Obligations.StepRunsTheDecodedInstruction
  intro s hrun
  refine ⟨fun bs i hready hblk hbs hdec => step_of_decodeBlock hrun hready hblk hbs hdec,
    fun bs i hready hblk hL hM hbs hdec => step_of_decodeLzvn hrun hready hblk hL hM hbs hdec,
    fun r hphase hr => step_of_fetch_instr hrun (fetch_freqs hphase hr),
    fun hphase hidx => step_of_fetch_instr hrun (fetch_lits hphase hidx),
    fun hready hblk hsrc hL hM hrem => step_of_fetch_instr hrun ?_,
    fun hphase => step_of_fetch_instr hrun (by rw [fetch, hphase]),
    fun hphase => step_of_fetch_instr hrun (by rw [fetch, hphase])⟩
  rw [fetch_triplet hready hblk, fetchTriplet_next hsrc hL hM hrem]

/-- Settles O10: each header tests its own length and nothing else. -/
theorem rawAndLzvnHeadersStartABlock : Obligations.RawAndLzvnHeadersStartABlock := by
  unfold Obligations.RawAndLzvnHeadersStartABlock
  exact fun s n p => ⟨exec_bvxRaw n, fun h => if_pos h, exec_bvxLzvn n p, fun h => if_pos h⟩

/-- Settles O12: the tests of the header length in their order, and the fields of the record from the packed words. -/
theorem v2HeaderStartsASetup : Obligations.V2HeaderStartsASetup := by
  unfold Obligations.V2HeaderStartsASetup
  refine ⟨fun s h => ⟨fun hshort => if_pos hshort, fun hfixed => ⟨exec_bvx2_badSize h hfixed, exec_bvx2_short h hfixed,
    exec_bvx2_noStream h hfixed, exec_bvx2_stream h hfixed⟩⟩, ?_⟩
  intro s v0 v1 v2 hrun hready hblk hfixed hmagic hv0 hv1 hv2 hsize hall
  obtain ⟨nRaw, w0, w1, w2, hstep, hraw, hw0, hw1, hw2⟩ := step_v2Header hrun hready hblk hfixed hmagic
  obtain rfl := Option.some_inj.1 (hv0.symm.trans hw0)
  obtain rfl := Option.some_inj.1 (hv1.symm.trans hw1)
  obtain rfl := Option.some_inj.1 (hv2.symm.trans hw2)
  have hlanes : ∀ k < 4, lane (unpackV2 nRaw v0 v1 v2).litState k = field v1 (10 * k) 10 := by
    intro k hk
    interval_cases k <;> rfl
  rcases hsize.eq_or_lt with hempty | hstream
  · rw [exec_bvx2_noStream _ hfixed hempty.symm] at hstep
    exact ⟨_, hstep, rfl, (if_pos hempty.symm).symm, hraw, rfl, rfl, rfl, rfl, rfl, hlanes, rfl, rfl, rfl, rfl, rfl, rfl⟩
  · rw [exec_bvx2_stream _ hfixed hstream hall] at hstep
    exact ⟨_, hstep, rfl, (if_neg hstream.ne').symm, hraw, rfl, rfl, rfl, rfl, rfl, hlanes, rfl, rfl, rfl, rfl, rfl, rfl⟩

end Sys2Proof.Proofs.Dispatcher

/-! PROOFS. The block setup and the FSE symbols (41_fse.md, 42_header.md, 43_lzfse_block.md): the frequency stream, the header
check and the table builds, the literal pass and the L, M and D values; from that the statements of the family. -/

namespace Sys2Proof.Machine

/-! ## Reads of SRC depend on SRC alone -/

section SameSrc
variable {s t : State}

theorem srcByte_congr (hsrc : t.src = s.src) (hlen : t.srcLen = s.srcLen) (p : Nat) : srcByte t p = srcByte s p := by
  rw [srcByte, srcByte, hsrc, hlen]

theorem srcBytes_congr (hsrc : t.src = s.src) (hlen : t.srcLen = s.srcLen) (n p : Nat) : srcBytes t n p = srcBytes s n p := by
  induction n generalizing p with
  | zero => rfl
  | succ n ih => simp only [srcBytes, srcByte_congr hsrc hlen, ih]

theorem srcRead_congr (hsrc : t.src = s.src) (hlen : t.srcLen = s.srcLen) (p n : Nat) : srcRead t p n = srcRead s p n := by
  rw [srcRead, srcRead, srcBytes_congr hsrc hlen]

end SameSrc

/-! ## What an init can do -/

/-- An init sets up a full window, raises BITSTREAM_INIT, or reads outside SRC, and which one depends on SRC and on the reader
before it alone (40_bitreader.md R152). -/
theorem readerInit_outcome (w : ReaderId) (n : Int) (e lo : Nat) (s : State) :
    (∃ r, ReaderFull r ∧ r.pos ≤ e ∧ ∀ t : State, t.src = s.src → t.srcLen = s.srcLen → reader w t = reader w s →
      readerInit w n e lo t = .ok () (setReader w r t)) ∨
    (∃ r, ∀ t : State, t.src = s.src → t.srcLen = s.srcLen → reader w t = reader w s →
      readerInit w n e lo t = .ended (raiseMalformed .bitstreamInit (setReader w r t))) ∨
    (s.srcLen < e ∧ ∀ t : State, t.src = s.src → t.srcLen = s.srcLen → readerInit w n e lo t = .fault .srcOob) := by
  by_cases hshort : e < lo + initBytes n
  · refine .inr (.inl ⟨{ reader w s with lower := lo }, fun t _ _ hr => ?_⟩)
    rw [readerInit_short t hshort, hr]
  · cases hv : srcRead s (e - initBytes n) (initBytes n) with
    | none =>
      have hout : s.srcLen < e := by
        by_contra hin
        obtain ⟨v, hv'⟩ := srcRead_below_exists (k := initBytes n) (by omega) (not_lt.1 hin)
        rw [hv] at hv'
        cases hv'
      refine .inr (.inr ⟨hout, fun t hsrc hlen => ?_⟩)
      rw [← srcRead_congr hsrc hlen] at hv
      simp only [initBytes] at hshort hv
      simp [readerInit, hshort, hv]
    | some v =>
      have hload (t : State) (hsrc : t.src = s.src) (hlen : t.srcLen = s.srcLen) :
          readerInit w n e lo t = readerCheck w (setReader w (initReader n e lo v) t) :=
        readerInit_loads (not_lt.1 hshort) ((srcRead_congr hsrc hlen _ _).trans hv)
      by_cases hfull : ReaderFull (initReader n e lo v)
      · refine .inl ⟨initReader n e lo v, hfull, Nat.sub_le _ _, fun t hsrc hlen _ => ?_⟩
        rw [hload t hsrc hlen, readerCheck_of_full (by rwa [reader_setReader_same])]
      · refine .inr (.inl ⟨initReader n e lo v, fun t hsrc hlen _ => ?_⟩)
        rw [hload t hsrc hlen, readerCheck_of_not_full (by rwa [reader_setReader_same])]

/-! ## The frequency stream -/

theorem exec_freqCode {s : State} {i : Instr} {n v : Nat} (hi : IsFreqCode i n v) : exec i s = (freqCount n v s).out := by
  rcases hi with ⟨rfl, rfl⟩ | ⟨rfl, rfl⟩ | ⟨rfl, rfl⟩ | ⟨rfl, rfl⟩ | ⟨rfl, rfl⟩ <;> rfl

section FreqCount
variable {s : State} {n v : Nat} {r r' : FreqReader} {fs : List Nat}

/-- A code longer than the bits left (42_header.md R239). -/
theorem freqCount_tooLong (hr : freqWindow s = some r) (hn : r.nb < n) :
    freqCount n v s = .ended (raiseMalformed .hdrV2Freq { s with freq := r }) := by
  rw [freqCount, hr]
  exact if_pos hn

variable (hr : freqWindow s = some r) (hn : n ≤ r.nb) (hr' : r' = { r with acc := r.acc / 2 ^ n, nb := r.nb - n })
  (hfs : fs = s.freqs ++ [v])
include hr hn hr' hfs

theorem freqCount_next (hlen : fs.length < 360) : freqCount n v s = .ok () { s with freqs := fs, freq := r' } := by
  subst hr' hfs
  rw [freqCount, hr]
  rw [← Nat.shiftRight_eq_div_pow]
  exact (if_neg hn.not_gt).trans (if_pos hlen)

theorem freqCount_last (hlen : 360 ≤ fs.length) : freqCount n v s = freqsDone { s with freqs := fs, freq := r' } := by
  subst hr' hfs
  rw [freqCount, hr]
  rw [← Nat.shiftRight_eq_div_pow]
  exact (if_neg hn.not_gt).trans (if_neg hlen.not_gt)

end FreqCount

/-- A byte taken above the bits held: the accumulator grows by the byte at its place. -/
theorem or_byte_shifted {acc nb b : Nat} (hacc : acc < 2 ^ nb) : acc ||| b <<< nb = acc + b * 2 ^ nb := by
  rw [Nat.or_comm, ← Nat.shiftLeft_add_eq_or_of_lt hacc, Nat.shiftLeft_eq, Nat.add_comm]

theorem acc_add_lt {acc nb v k : Nat} (hacc : acc < 2 ^ nb) (hv : v < 2 ^ k) : acc + v * 2 ^ nb < 2 ^ (nb + k) := by
  calc acc + v * 2 ^ nb < (v + 1) * 2 ^ nb := by rw [Nat.add_one_mul]; omega
    _ ≤ 2 ^ k * 2 ^ nb := Nat.mul_le_mul_right _ hv
    _ = 2 ^ (nb + k) := by rw [Nat.pow_add, Nat.mul_comm]

theorem srcRead_succ {s : State} {q k v : Nat} {b : Byte} (hb : srcByte s q = some b) (hv : srcRead s (q + 1) k = some v) :
    srcRead s q (k + 1) = some (b.toNat + 256 * v) := by
  obtain ⟨bs, hbs, rfl⟩ := Option.map_eq_some_iff.1 hv
  simp [srcRead, srcBytes, hb, hbs, leNat]

/-- What a refill of at most `fuel` bytes leaves: `k` bytes were taken, whose value stands above the bits held. -/
structure Refilled (s : State) (fuel : Nat) (r r' : FreqReader) (k v : Nat) : Prop where
  qend : r'.qend = r.qend
  q : r'.q = r.q + k
  nb : r'.nb = r.nb + 8 * k
  value : srcRead s r.q k = some v
  acc : r'.acc = r.acc + v * 2 ^ r.nb
  inside : r'.q ≤ r.qend
  room : r'.nb ≤ 32
  stops : r'.q = r.qend ∨ 24 < r'.nb ∨ k = fuel

theorem freqRefill_spec {s : State} (fuel : Nat) {r : FreqReader} (hq : r.q ≤ r.qend) (hend : r.qend ≤ s.srcLen)
    (hnb : r.nb ≤ 32) (hacc : r.acc < 2 ^ r.nb) :
    ∃ r' k v, freqRefill s fuel r = some r' ∧ Refilled s fuel r r' k v := by
  induction fuel generalizing r with
  | zero => exact ⟨r, 0, 0, rfl, rfl, rfl, rfl, rfl, by simp, hq, hnb, .inr (.inr rfl)⟩
  | succ fuel ih =>
    by_cases hgo : r.q < r.qend ∧ r.nb + 8 ≤ 32
    · obtain ⟨b, hb⟩ := Option.isSome_iff_exists.1 ((srcByte_isSome_iff s r.q).2 (by omega))
      have hnext : r.acc + b.toNat * 2 ^ r.nb < 2 ^ (r.nb + 8) := acc_add_lt hacc b.isLt
      obtain ⟨r', k, v, hrun, h⟩ := ih (r := ⟨r.acc + b.toNat * 2 ^ r.nb, r.nb + 8, r.q + 1, r.qend⟩) hgo.1 hend hgo.2 hnext
      obtain ⟨hqend, hq', hnb', hvalue, hacc', hinside, hroom, hstops⟩ := h
      simp only at hqend hq' hnb' hvalue hacc' hinside hstops
      refine ⟨r', k + 1, b.toNat + 256 * v, ?_, hqend, by omega, by omega, srcRead_succ hb hvalue, ?_, hinside, hroom, by omega⟩
      · rw [freqRefill, if_pos hgo, hb]
        simp only [or_byte_shifted hacc]
        exact hrun
      · rw [hacc', Nat.pow_add]
        ring
    · refine ⟨r, 0, 0, by rw [freqRefill, if_neg hgo], rfl, rfl, rfl, rfl, by simp, hq, hnb, ?_⟩
      omega

/-! ## The header check and the table builds -/

/-- What a passed header check says of the header (42_header.md R245). -/
structure HeaderPasses (s : State) : Prop where
  nLiterals : s.hdr.nLiterals ≤ maxLiterals
  nMatches : s.hdr.nMatches ≤ maxMatches
  lState : s.hdr.lState < s.cfg.nL
  mState : s.hdr.mState < s.cfg.nM
  dState : s.hdr.dState < s.cfg.nD
  lSum : freqSum s.hdr.lFreq ≤ s.cfg.nL
  mSum : freqSum s.hdr.mFreq ≤ s.cfg.nM
  dSum : freqSum s.hdr.dFreq ≤ s.cfg.nD
  litSum : freqSum s.hdr.litFreq ≤ s.cfg.nLit

theorem headerPasses_of_check {s : State} (h : hdrCheck s = 0#14) : HeaderPasses s := by
  obtain ⟨-, hlit, hmat, -, hl, hm, hd, hls, hms, hds, hlits, -⟩ := Proofs.Header.headerCheck s
  simp only [h, BitVec.getLsbD_zero, Bool.false_eq_true, false_iff, not_lt, not_le] at hlit hmat hl hm hd hls hms hds hlits
  exact ⟨hlit, hmat, hl, hm, hd, hls, hms, hds, hlits⟩

theorem buildSym_overflow_iff (n : Nat) (fs : List Nat) : (buildSym n fs).2 = true ↔ n < freqSum fs := by
  have h := fseEntries_overflow_iff (mk := mkSym) fs 0 n.zero_le
  rwa [Nat.zero_add] at h

theorem buildVal_overflow_iff (n : Nat) (extra base fs : List Nat) :
    (buildVal n extra base fs).2 = true ↔ n < freqSum fs := by
  have h := fseEntries_overflow_iff (mk := mkVal extra base) fs 0 n.zero_le
  rwa [Nat.zero_add] at h

/-- The state with the four tables of the header at hand built. -/
def withTables (s : State) : State :=
  { s with
    tLit := (buildSym s.cfg.nLit s.hdr.litFreq).1
    tL := (buildVal s.cfg.nL s.cfg.lExtra s.cfg.lBase s.hdr.lFreq).1
    tM := (buildVal s.cfg.nM s.cfg.mExtra s.cfg.mBase s.hdr.mFreq).1
    tD := (buildVal s.cfg.nD s.cfg.dExtra s.cfg.dBase s.hdr.dFreq).1 }

theorem afterBuild_ok {overflow : Bool} (h : ¬ overflow = true) (s : State) : afterBuild overflow s = .ok () s := if_neg h

theorem buildTables_passes {s : State} (h : HeaderPasses s) : buildTables s = .ok () (withTables s) := by
  have hlit := (buildSym_overflow_iff s.cfg.nLit s.hdr.litFreq).not.2 h.litSum.not_gt
  have hl := (buildVal_overflow_iff s.cfg.nL s.cfg.lExtra s.cfg.lBase s.hdr.lFreq).not.2 h.lSum.not_gt
  have hm := (buildVal_overflow_iff s.cfg.nM s.cfg.mExtra s.cfg.mBase s.hdr.mFreq).not.2 h.mSum.not_gt
  have hd := (buildVal_overflow_iff s.cfg.nD s.cfg.dExtra s.cfg.dBase s.hdr.dFreq).not.2 h.dSum.not_gt
  simp only [buildTables, afterBuild_ok hlit, afterBuild_ok hl, afterBuild_ok hm, afterBuild_ok hd, Res.bind_ok, withTables]

/-! ## The setup -/

theorem validate_passes {s : State} (hcheck : hdrCheck s = 0#14) : validate s = .ok () { s with hdrFail := 0#14 } := by
  rw [validate, hcheck]
  exact if_neg (not_not_intro rfl)

/-- A passed check and a body that is all there: the setup goes on to the literal reader. -/
theorem setupStep_passes {s : State} (hcheck : hdrCheck s = 0#14)
    (hbody : bodyPos s + s.hdr.nLitPayload + s.hdr.nLmdPayload ≤ s.srcLen) :
    setupStep s = litInit (withTables { s with hdrFail := 0#14 }) := by
  have hin : bodyCheck { s with hdrFail := 0#14 } = .ok () { s with hdrFail := 0#14 } := if_neg hbody.not_gt
  have hpass := headerPasses_of_check hcheck
  have hpass' : HeaderPasses { s with hdrFail := 0#14 } := ⟨hpass.1, hpass.2, hpass.3, hpass.4, hpass.5, hpass.6, hpass.7,
    hpass.8, hpass.9⟩
  rw [setupStep, validate_passes hcheck, Res.bind_ok, hin, Res.bind_ok, buildTables_passes hpass', Res.bind_ok]

theorem setupStep_bodyShort {s : State} (hcheck : hdrCheck s = 0#14)
    (hbody : s.srcLen < bodyPos s + s.hdr.nLitPayload + s.hdr.nLmdPayload) :
    setupStep s = .ended (stopRun .srcEmpty { s with hdrFail := 0#14 }) := by
  have hshort : bodyCheck { s with hdrFail := 0#14 } = .ended (stopRun .srcEmpty { s with hdrFail := 0#14 }) := if_pos hbody
  rw [setupStep, validate_passes hcheck, Res.bind_ok, hshort, Res.bind_ended]

theorem litInit_ok {s : State} {r : BitReader}
    (h : readerInit .litrd s.hdr.literalBits (bodyPos s + s.hdr.nLitPayload) 0 { s with lit := [] } =
      .ok () { s with lit := [], litrd := r }) :
    litInit s = .ok () { s with lit := [], litrd := r, ls := s.hdr.litState, litIdx := 0, phase := .lits } := by
  rw [litInit, h, Res.bind_ok]

theorem litInit_ended {s t : State}
    (h : readerInit .litrd s.hdr.literalBits (bodyPos s + s.hdr.nLitPayload) 0 { s with lit := [] } = .ended t) :
    litInit s = .ended t := by
  rw [litInit, h, Res.bind_ended]

theorem lmdInit_ok {s : State} {r : BitReader}
    (h : readerInit .lmd s.hdr.lmdBits (bodyPos s + s.hdr.nLitPayload + s.hdr.nLmdPayload) 0 s = .ok () { s with lmd := r }) :
    lmdInit s = .ok ()
      { s with
        lmd := r, lSt := s.hdr.lState, mSt := s.hdr.mState, dSt := s.hdr.dState, L := 0, M := 0, D := none,
        nRem := s.hdr.nMatches, litPos := 0, lmdPay := s.hdr.nLmdPayload,
        srcPos := s.srcPos + s.hdr.hdrLen + s.hdr.nLitPayload, blk := if s.magic = magicV1 then .v1 else .v2,
        phase := .ready } := by
  simp only [lmdInit, h, Res.bind_ok]
  rfl

theorem lmdInit_ended {s t : State}
    (h : readerInit .lmd s.hdr.lmdBits (bodyPos s + s.hdr.nLitPayload + s.hdr.nLmdPayload) 0 s = .ended t) :
    lmdInit s = .ended t := by
  simp only [lmdInit, h, Res.bind_ended]

/-! ## The literal pass -/

/-- What the flush of lane 0 leaves: only the literal reader changes (43_lzfse_block.md R271). -/
theorem laneFlush_ok {s s1 : State} (h : (if s.litIdx % 4 = 0 then flush .litrd s else .ok () s) = .ok () s1) :
    ∃ r, s1 = { s with litrd := r } := by
  split at h
  · obtain ⟨-, v, -, rfl⟩ := flush_ok h
    exact ⟨_, rfl⟩
  · cases h
    exact ⟨s.litrd, rfl⟩

theorem pull_litrd_ok {n b : Nat} {s t : State} (h : pull .litrd n s = .ok b t) : ∃ r, t = { s with litrd := r } := by
  obtain ⟨-, -, rfl⟩ := pull_eq_ok.1 h
  exact ⟨_, rfl⟩

theorem pull_lmd_ok {n b : Nat} {s t : State} (h : pull .lmd n s = .ok b t) : ∃ r, t = { s with lmd := r } := by
  obtain ⟨-, -, rfl⟩ := pull_eq_ok.1 h
  exact ⟨_, rfl⟩

theorem flush_lmd_ok {s t : State} (h : flush .lmd s = .ok () t) : ∃ r, t = { s with lmd := r } := by
  obtain ⟨-, v, -, rfl⟩ := flush_ok h
  exact ⟨_, rfl⟩

/-- A claimed slot gives its symbol and the next state of its lane (41_fse.md R188). -/
theorem decodeSym_ok {s t : State} {e : SymEntry} {st b : Nat} (he : e = s.tLit.getD st .unassigned)
    (hassigned : e.assigned = true) (hpull : pull .litrd e.nbits s = .ok b t) :
    decodeSym st s = .ok (e.sym, e.delta + b) t := by
  subst he
  simp only [decodeSym, hassigned, Bool.true_eq_false, if_false, hpull, Res.bind_ok]

theorem decodeSym_unassigned {s : State} {st : Nat} (h : (s.tLit.getD st .unassigned).assigned = false) :
    decodeSym st s = .fault .unassignedSlot := if_pos h

/-- A claimed slot gives its value and the next state (41_fse.md R189). -/
theorem decodeVal_ok {s t : State} {e : ValEntry} {tab : List ValEntry} {st b : Nat} (he : e = tab.getD st .unassigned)
    (hassigned : e.assigned = true) (hpull : pull .lmd e.totalBits s = .ok b t) :
    decodeVal tab st s = .ok (e.vbase + b % 2 ^ e.vbits, e.delta + b / 2 ^ e.vbits) t := by
  subst he
  simp only [decodeVal, hassigned, Bool.true_eq_false, if_false, hpull, Res.bind_ok, lowBits, Nat.shiftRight_eq_div_pow]

theorem decodeVal_unassigned {s : State} {tab : List ValEntry} {st : Nat} (h : (tab.getD st .unassigned).assigned = false) :
    decodeVal tab st s = .fault .unassignedSlot := if_pos h

theorem litSymbol_ok {s s1 s2 : State} {e : SymEntry} {b : Nat} (he : e = s.tLit.getD (lane s.ls s.litIdx) .unassigned)
    (hassigned : e.assigned = true) (hidx : s.litIdx < litBufSize)
    (hflush : (if s.litIdx % 4 = 0 then flush .litrd s else .ok () s) = .ok () s1)
    (hpull : pull .litrd e.nbits s1 = .ok b s2) :
    litSymbol s = .ok ()
      { s with
        litrd := s2.litrd, lit := memWrite .lit s.lit s.litIdx (BitVec.ofNat 8 e.sym),
        ls := setLane s.ls s.litIdx (e.delta + b), litIdx := s.litIdx + 1 } := by
  obtain ⟨r1, rfl⟩ := laneFlush_ok hflush
  obtain ⟨r2, rfl⟩ := pull_litrd_ok hpull
  rw [litSymbol, hflush, Res.bind_ok, decodeSym_ok (s := { s with litrd := r1 }) he hassigned hpull, Res.bind_ok, litWrite,
    if_pos hidx, Res.bind_ok]

/-! ## The values of a triplet -/

section Values
variable {s s1 : State}

/-- A flush and the pull after it, taken apart. -/
theorem flushPull_ok {n b : Nat} {s2 : State} (h : flushPull .lmd n s = .ok b s2) :
    ∃ r1 r2, s2 = { s with lmd := r2 } ∧ flush .lmd s = .ok () { s with lmd := r1 } ∧
      pull .lmd n { s with lmd := r1 } = .ok b s2 := by
  obtain ⟨_, s1, hflush, hpull⟩ := Res.bind_eq_ok.1 h
  obtain ⟨r1, rfl⟩ := flush_lmd_ok hflush
  obtain ⟨r2, rfl⟩ := pull_lmd_ok hpull
  exact ⟨r1, r2, rfl, hflush, hpull⟩

/-- The L/M/D reader cannot be refilled: nothing is decoded (40_bitreader.md R155). -/
theorem flush_lmd_short (h : s.lmd.pos < s.lmd.lower + flushAdd s.lmd.nbits / 8) :
    flush .lmd s = .ended (raiseMalformed .bitstreamFlush s) := flush_short h

end Values

theorem fetch_litsDone {s : State} (hphase : s.phase = .lits) (hidx : litGoal s ≤ s.litIdx) :
    fetch s = .action .runLmdInit := by
  simp [fetch, hphase, hidx.not_gt]

end Sys2Proof.Machine

namespace Sys2Proof.Proofs.Setup
open Sys2Proof.Machine

/-! ## The statements of the family -/

/-- Settles O31: the running sum of the builder passes the states when the whole sum does. -/
theorem tableOverflow : Obligations.TableOverflow := by
  unfold Obligations.TableOverflow
  exact ⟨fun n fs extra base => ⟨buildSym_overflow_iff n fs, buildVal_overflow_iff n extra base fs⟩,
    fun s h => ⟨_, buildTables_passes (headerPasses_of_check h)⟩⟩

/-- Settles O32: the flush, the decode and the store in their order. -/
theorem literalSymbolCompletes : Obligations.LiteralSymbolCompletes := by
  unfold Obligations.LiteralSymbolCompletes
  intro s s1 s2 e b he hassigned hidx hflush hpull
  refine ⟨_, ?_, memRead_write_same _ _ _ _, fun q hq => memRead_write_other _ _ _ hq⟩
  rw [exec, execLitSym, litSymbol_ok he hassigned hidx hflush hpull, Res.out_ok]

/-- Settles O33: the flush, the decode and the test of the literal length in their order. -/
theorem literalLengthCompletes : Obligations.LiteralLengthCompletes := by
  unfold Obligations.LiteralLengthCompletes
  intro s s2 e b v he hassigned hpull hv
  obtain ⟨r1, r2, rfl, hflush, hpull⟩ := flushPull_ok hpull
  rw [exec, execLVal, literalLength, hflush, Res.bind_ok, decodeVal_ok he hassigned hpull, Res.bind_ok, ← hv]
  exact ⟨fun hfits => by rw [if_neg hfits.not_gt]; rfl, fun hover => by rw [if_pos hover]; rfl⟩

/-- Settles O34: a flush and a decode each. -/
theorem matchLengthAndDistanceComplete : Obligations.MatchLengthAndDistanceComplete := by
  unfold Obligations.MatchLengthAndDistanceComplete
  refine ⟨fun s s2 e b he hassigned hpull => ?_, fun s s2 e b v he hassigned hpull hv => ?_⟩
  · obtain ⟨r1, r2, rfl, hflush, hpull⟩ := flushPull_ok hpull
    rw [exec, execMVal, matchLength, hflush, Res.bind_ok, decodeVal_ok he hassigned hpull, Res.bind_ok, Res.out_ok]
  · obtain ⟨r1, r2, rfl, hflush, hpull⟩ := flushPull_ok hpull
    rw [exec, execDVal, matchDistance, hflush, Res.bind_ok, decodeVal_ok he hassigned hpull, Res.bind_ok, Res.out_ok, ← hv]

/-- Settles O35: each symbol flushes first, and then looks its state up. -/
theorem fseSymbolsStop : Obligations.FseSymbolsStop := by
  unfold Obligations.FseSymbolsStop
  intro s s1
  refine ⟨fun hflush => ?_, fun hflush h => ?_, fun hshort => ?_, fun hidx hshort => ?_⟩
  · obtain ⟨r, rfl⟩ := flush_lmd_ok hflush
    simp only [exec, execLVal, literalLength, execMVal, matchLength, execDVal, matchDistance, hflush, Res.bind_ok]
    refine ⟨fun h => ?_, fun h => ?_, fun h => ?_⟩ <;> rw [decodeVal_unassigned h, Res.bind_fault, Res.out_fault]
  · obtain ⟨r, rfl⟩ := laneFlush_ok hflush
    rw [exec, execLitSym, litSymbol, hflush, Res.bind_ok, decodeSym_unassigned (s := { s with litrd := r }) h, Res.bind_fault, Res.out_fault]
  · simp only [exec, execLVal, literalLength, execMVal, matchLength, execDVal, matchDistance, flush_lmd_short hshort,
      Res.bind_ended, Res.out_ended]
    exact ⟨rfl, rfl, rfl⟩
  · rw [exec, execLitSym, litSymbol, if_pos hidx, flush_short (w := .litrd) hshort]
    rfl

/-- Settles O36: the length check, the count, and after the last count the final check. -/
theorem frequencyCodesComplete : Obligations.FrequencyCodesComplete := by
  unfold Obligations.FrequencyCodesComplete
  intro s i n v r r' fs hi hr hr' hfs
  rw [exec_freqCode hi]
  refine ⟨fun hn => ?_, fun hn hlen => ?_, fun hn hlen hnb hq => ?_, fun hn hlen hleft => ?_⟩
  · rw [freqCount_tooLong hr hn]
    rfl
  · rw [freqCount_next hr hn hr' hfs hlen, Res.out_ok]
  · rw [freqCount_last hr hn hr' hfs hlen, freqsDone, if_neg (by simp only; omega), Res.out_ok]
  · rw [freqCount_last hr hn hr' hfs hlen, freqsDone, if_pos hleft]
    rfl

/-- Settles O37: after four bytes nothing is left of the 32 bits. -/
theorem frequencyRefill : Obligations.FrequencyRefill := by
  unfold Obligations.FrequencyRefill
  intro s hq hend hnb hacc
  obtain ⟨r, k, v, hrun, h⟩ := freqRefill_spec 4 hq hend hnb hacc
  obtain ⟨hqend, hq', hnb', hvalue, hacc', hinside, hroom, hstops⟩ := h
  have hlt : r.acc < 2 ^ r.nb := by
    rw [hacc', hnb']
    exact acc_add_lt hacc (srcRead_lt hvalue)
  exact ⟨r, k, v, hrun, hqend, hq', by omega, hnb', hroom, hvalue, hacc', hlt, by omega⟩

/-- Settles O39: the check, the body check, the builds and the init of the literal reader in their order. -/
theorem setupBuildsTheTables : Obligations.SetupBuildsTheTables := by
  unfold Obligations.SetupBuildsTheTables
  intro s o hrun hsetup hcheck ho
  rw [step_setup hrun hsetup]
  refine ⟨fun hshort => ?_, fun hbody => ?_⟩
  · rw [setupStep_bodyShort hcheck hshort]
    rfl
  · rw [setupStep_passes hcheck hbody]
    rcases readerInit_outcome .litrd s.hdr.literalBits (bodyPos s + s.hdr.nLitPayload) 0 s with
      ⟨r, -, -, hok⟩ | ⟨r, hraise⟩ | ⟨hout, -⟩
    · rw [litInit_ok (s := withTables { s with hdrFail := 0#14 }) (hok _ rfl rfl rfl)]
      subst ho
      refine ⟨fun t ht => ?_, fun t ht => ?_⟩
      · obtain rfl := (Res.ok.inj ((hok s rfl rfl rfl).symm.trans ht)).2
        rfl
      · exact nomatch (hok s rfl rfl rfl).symm.trans ht
    · rw [litInit_ended (s := withTables { s with hdrFail := 0#14 }) (hraise _ rfl rfl rfl)]
      subst ho
      refine ⟨fun t ht => ?_, fun t ht => ⟨_, rfl, rfl, rfl, rfl, rfl, rfl, rfl⟩⟩
      exact nomatch (hraise s rfl rfl rfl).symm.trans ht
    · exact absurd hout (by omega)

/-- Settles O40: the setup ends as the init of the L/M/D reader goes. -/
theorem setupEndsWithTheTripletRegisters : Obligations.SetupEndsWithTheTripletRegisters := by
  unfold Obligations.SetupEndsWithTheTripletRegisters
  intro s t o hrun hlits hidx ho
  rw [step_of_fetch_action hrun (fetch_litsDone hlits hidx)]
  subst ho
  rcases readerInit_outcome .lmd s.hdr.lmdBits (bodyPos s + s.hdr.nLitPayload + s.hdr.nLmdPayload) 0 s with
    ⟨r, -, -, hok⟩ | ⟨r, hraise⟩ | ⟨-, hfault⟩
  · have hok := hok s rfl rfl rfl
    refine ⟨fun ht => ?_, fun ht => nomatch hok.symm.trans ht⟩
    obtain rfl := (Res.ok.inj (hok.symm.trans ht)).2
    exact congrArg Res.out (lmdInit_ok hok)
  · have hraise := hraise s rfl rfl rfl
    refine ⟨fun ht => (nomatch hraise.symm.trans ht), fun ht => ?_⟩
    obtain rfl := Res.ended.inj (hraise.symm.trans ht)
    exact congrArg Res.out (lmdInit_ended hraise)
  · exact ⟨fun ht => (nomatch (hfault s rfl rfl).symm.trans ht), fun ht => (nomatch (hfault s rfl rfl).symm.trans ht)⟩

end Sys2Proof.Proofs.Setup

/-! PROOFS. Execute (43_lzfse_block.md R279 to R283): what the copies of a triplet append on either path, and where they stop;
from that the statements of the family. -/

namespace Sys2Proof.Machine

/-! ## The copies -/

section Copies
variable {n d : Nat} {s : State}

/-- `n` bytes of LIT are appended (R281). -/
theorem copyLit_appended (hl : s.litPos + n ≤ litBufSize) (hd : s.dstPos + n ≤ s.dstCap)
    (hw : ∀ j < n, litWritten s (s.litPos + j) = true) :
    ∃ mem, copyLit n s = .ok ()
        { s with dstPos := s.dstPos + n, litPos := s.litPos + n, dst := mem, draws := s.draws + 1 } ∧
      Appended s.dst mem s.dstPos n 0 0 (fun j => memRead .lit s.lit (s.litPos + j)) := by
  obtain ⟨mem, hrun, hbelow, hbytes, habove⟩ := copyLit_runs (.inr hl) (.inr hd) hw
  exact ⟨mem, hrun, hbelow, hbytes, fun j hj => absurd hj j.not_lt_zero, habove⟩

/-- `n` match bytes at distance `d` are appended (R282). -/
theorem copyMatch_appended (h0 : d ≠ 0) (hle : d ≤ s.dstPos) (hd : s.dstPos + n ≤ s.dstCap) (hfilled : DstFilled s) :
    ∃ mem, copyMatch d n s = .ok () { s with dstPos := s.dstPos + n, dst := mem, draws := s.draws + 1 } ∧
      Appended s.dst mem s.dstPos 0 n d (fun _ => none) := by
  obtain ⟨mem, hrun, hbelow, hbytes, habove⟩ := copyMatch_runs h0 hle (.inr hd) hfilled
  exact ⟨mem, hrun, hbelow, fun j hj => absurd hj j.not_lt_zero, hbytes, habove⟩

/-- The copy comes to an entry without its mark and faults there (R283). -/
theorem copyFromLit_stale {n lp dp j : Nat} {s : State} (hl : lp + n ≤ litBufSize) (hd : dp + n ≤ s.dstCap) (hj : j < n)
    (hstale : memRead .lit s.lit (lp + j) = none) : copyFromLit n lp dp s = .fault .staleLiteral := by
  induction n generalizing lp dp j s with
  | zero => exact absurd hj j.not_lt_zero
  | succ n ih =>
    rw [copyFromLit, litRead, if_pos (by omega)]
    cases hread : memRead .lit s.lit lp with
    | none => rfl
    | some v =>
      cases j with
      | zero => exact absurd (hread.symm.trans hstale) (by simp)
      | succ j =>
        rw [Res.bind_ok, dstWrite, if_pos (by omega), Res.bind_ok]
        refine ih (j := j) (by omega) (by simp only; omega) (by omega) ?_
        rwa [Nat.add_right_comm, Nat.add_assoc]

theorem copyLit_stale {j : Nat} (hl : s.litPos + n ≤ litBufSize) (hd : s.dstPos + n ≤ s.dstCap) (hj : j < n)
    (hstale : litWritten s (s.litPos + j) = false) : copyLit n s = .fault .staleLiteral := by
  rw [litWritten, Option.isSome_eq_false_iff, Option.isNone_iff_eq_none] at hstale
  rw [copyLit, copyFromLit_stale hl hd hj hstale, Res.bind_fault]

end Copies

/-! ## Execute -/

theorem step_execute {s : State} (h : AtExecute s) : step s = (execute s).out := by
  obtain ⟨hrun, hcopy | ⟨hready, hblk, hsrc, hpending⟩⟩ := h
  · have hfetch : fetch s = .action .runExecute := by rw [fetch, hcopy]
    exact step_of_fetch_action hrun hfetch
  · have hnot : ¬ (s.L = 0 ∧ s.M = 0) := by omega
    have hfetch : fetch s = .action .runExecute := by
      rw [fetch_triplet hready hblk, fetchTriplet, hsrc, if_neg Bool.false_ne_true, if_neg hnot]
    exact step_of_fetch_action hrun hfetch

theorem execute_badDistance {s : State} (h : s.D = none ∨ ∃ d, s.D = some d ∧ s.dstPos + s.L < d) :
    execute s = .ended (raiseMalformed .badDistance s) := by
  rw [execute]
  rcases h with hD | ⟨d, hD, hlt⟩
  · rw [hD]
  · rw [hD]
    exact if_pos hlt

section Execute
variable {s : State} {d : Nat} (hD : s.D = some d) (hle : d ≤ s.dstPos + s.L)
include hD hle

/-- A good distance: the room decides between the two paths (R280). -/
theorem execute_paths :
    execute s = if s.L + s.M + margin ≤ s.dstCap - s.dstPos then fastCopy d s else slowCopy d s := by
  rw [execute, hD]
  exact if_neg hle.not_gt

/-- Either path copies literals first, as many as there is room for. -/
theorem execute_copyLit_fault {f : Fault} (hf : copyLit (min s.L (s.dstCap - s.dstPos)) s = .fault f) :
    execute s = .fault f := by
  rw [execute_paths hD hle]
  split
  · next hfast =>
    rw [min_eq_left (by omega)] at hf
    rw [fastCopy, hf, Res.bind_fault]
  · by_cases hL : s.L ≤ s.dstCap - s.dstPos
    · rw [min_eq_left hL] at hf
      simp only [slowCopy, if_pos hL, hf, Res.bind_fault]
    · rw [min_eq_right (by omega)] at hf
      simp only [slowCopy, if_neg hL, hf, Res.bind_fault]

variable (h0 : d ≠ 0) (hfilled : DstFilled s) (hcap : s.dstPos ≤ s.dstCap) (hlit : s.litPos + s.L ≤ litBufSize)
include h0 hfilled hcap hlit

/-- With room for all of it, both paths copy the literals and then the match. -/
theorem execute_fits (hfits : s.L + s.M ≤ s.dstCap - s.dstPos) (hw : ∀ j < s.L, litWritten s (s.litPos + j) = true) :
    ∃ mem n, execute s = .ok ()
        { s with
          dstPos := s.dstPos + s.L + s.M, litPos := s.litPos + s.L, L := 0, M := 0, dst := mem, draws := n,
          phase := .ready } ∧
      Appended s.dst mem s.dstPos s.L s.M d (fun j => memRead .lit s.lit (s.litPos + j)) := by
  obtain ⟨mid, hlits, happ⟩ := copyLit_appended hlit (by omega) hw
  have hfilled1 : ∀ q < s.dstPos + s.L, memRead .dst mid q ≠ none := happ.filled hfilled fun j hj hnone => by
    have := hw j hj
    rw [litWritten, hnone] at this
    cases this
  have hroom : s.dstPos + s.L + s.M ≤ s.dstCap := by omega
  rw [execute_paths hD hle]
  split
  · obtain ⟨mem, hmatch, happ1⟩ := copyMatch_appended (n := s.M) (s := { s with
        dstPos := s.dstPos + s.L, litPos := s.litPos + s.L, dst := mid, draws := s.draws + 1 }) h0 hle hroom hfilled1
    exact ⟨mem, s.draws + 1 + 1, by rw [fastCopy, hlits, Res.bind_ok, hmatch, Res.bind_ok], happ.append happ1⟩
  · obtain ⟨mem, hmatch, happ1⟩ := copyMatch_appended (n := s.M) (s := { s with
        dstPos := s.dstPos + s.L, litPos := s.litPos + s.L, dst := mid, draws := s.draws + 1, L := 0 }) h0 hle hroom hfilled1
    refine ⟨mem, s.draws + 1 + 1, ?_, happ.append happ1⟩
    simp only [slowCopy, if_pos (show s.L ≤ s.dstCap - s.dstPos by omega), hlits, Res.bind_ok, slowMatch,
      if_pos (show s.M ≤ s.dstCap - s.dstPos - s.L by omega), hmatch]

/-- Without room for all of it, the slow path fills DST and keeps the rest. -/
theorem execute_cut {l : Nat} (hcut : s.dstCap - s.dstPos < s.L + s.M) (hl : l = min s.L (s.dstCap - s.dstPos))
    (hw : ∀ j < l, litWritten s (s.litPos + j) = true) :
    ∃ mem n, execute s = .ended (stopRun .dstFull
        { s with
          dstPos := s.dstCap, litPos := s.litPos + l, L := s.L - l, M := s.M - (s.dstCap - s.dstPos - l), dst := mem,
          draws := n }) ∧
      Appended s.dst mem s.dstPos l (s.dstCap - s.dstPos - l) d (fun j => memRead .lit s.lit (s.litPos + j)) := by
  obtain ⟨mid, hlits, happ⟩ := copyLit_appended (n := l) (by omega) (by omega) hw
  rw [execute_paths hD hle, if_neg (by omega), slowCopy]
  by_cases hL : s.L ≤ s.dstCap - s.dstPos
  · obtain rfl : l = s.L := by omega
    have hfilled1 : ∀ q < s.dstPos + s.L, memRead .dst mid q ≠ none := happ.filled hfilled fun j hj hnone => by
      have := hw j hj
      rw [litWritten, hnone] at this
      cases this
    have hroom : s.dstPos + s.L + (s.dstCap - s.dstPos - s.L) = s.dstCap := by omega
    obtain ⟨mem, hmatch, happ1⟩ := copyMatch_appended (n := s.dstCap - s.dstPos - s.L) (s := { s with
        dstPos := s.dstPos + s.L, litPos := s.litPos + s.L, dst := mid, draws := s.draws + 1, L := 0 }) h0 hle hroom.le
        hfilled1
    refine ⟨mem, s.draws + 1 + 1, ?_, happ.append happ1⟩
    simp only [if_pos hL, hlits, Res.bind_ok, slowMatch, if_neg (show ¬ s.M ≤ s.dstCap - s.dstPos - s.L by omega), hmatch,
      hroom, Nat.sub_self]
  · obtain rfl : l = s.dstCap - s.dstPos := by omega
    have hroom : s.dstPos + (s.dstCap - s.dstPos) = s.dstCap := by omega
    refine ⟨mid, s.draws + 1, ?_, ?_⟩
    · simp only [if_neg hL, hlits, Res.bind_ok, hroom, Nat.sub_self, Nat.sub_zero]
    · rw [Nat.sub_self]
      exact happ.withDistance _

end Execute
end Sys2Proof.Machine

namespace Sys2Proof.Proofs.Triplet
open Sys2Proof.Machine

/-! ## The statements of the family -/

/-- Settles O42: the distance check comes first, and the literals are the first to be copied. -/
theorem executeStops : Obligations.ExecuteStops := by
  unfold Obligations.ExecuteStops
  refine ⟨fun s hat hbad => ?_, fun s d j hat hD hle hcap hlit hjL hjroom hstale => ?_⟩
  · rw [step_execute hat, execute_badDistance hbad]
    rfl
  · have hcopy := copyLit_stale (n := min s.L (s.dstCap - s.dstPos)) (by omega) (by omega) (lt_min hjL hjroom) hstale
    rw [step_execute hat, execute_copyLit_fault hD hle hcopy, Res.out_fault]

/-- Settles O43: both paths make the same copies. -/
theorem executeCompletes : Obligations.ExecuteCompletes := by
  unfold Obligations.ExecuteCompletes
  intro s d hat hD h0 hle hfilled hcap hfits hlit hw
  obtain ⟨mem, n, hrun, happ⟩ := execute_fits hD hle h0 hfilled hcap hlit hfits hw
  exact ⟨mem, n, by rw [step_execute hat, hrun, Res.out_ok], happ⟩

/-- Settles O44: only the slow path is taken, and it fills the room. -/
theorem executeKeepsTheRest : Obligations.ExecuteKeepsTheRest := by
  unfold Obligations.ExecuteKeepsTheRest
  intro s d room l hat hD h0 hle hfilled hcap hroom hcut hl hlit hw
  subst hroom
  obtain ⟨mem, n, hrun, happ⟩ := execute_cut hD hle h0 hfilled hcap hlit hcut hl hw
  exact ⟨mem, n, by rw [step_execute hat, hrun]; rfl, happ⟩

end Sys2Proof.Proofs.Triplet

/-! PROOFS. The host's side (45_dispatcher.md R395 to R400, 70_reset_and_hazards.md R470 to R472): which commands an idle core
takes, what START and RESUME leave, and what the host reads; from that the statements of the family. -/

namespace Sys2Proof.Machine

/-! ## Memories as loaded -/

/-- SRC as it is supplied reads as the supplied bytes. -/
theorem memRead_supplied {bs : List Byte} {p : Nat} (hp : p < bs.length) :
    memRead .src (memLoad .src [] 0 bs) p = bs[p]? := by
  have h := memRead_load_inside .src bs [] 0 p hp
  rw [Nat.zero_add] at h
  rw [h, List.getElem?_eq_getElem hp]

theorem srcByte_supplied {t : State} {bs : List Byte} (hsrc : t.src = memLoad .src [] 0 bs) (hlen : t.srcLen = bs.length)
    (p : Nat) : srcByte t p = bs[p]? := by
  rw [srcByte, hsrc, hlen]
  split
  · next hp => exact memRead_supplied hp
  · next hp => rw [List.getElem?_eq_none (not_lt.1 hp)]

theorem memBelow_eq_self {m : Memory} {n : Nat} (h : ∀ c ∈ m, c.1 < n) : memBelow m n = m :=
  List.filter_eq_self.2 fun c hc => decide_eq_true (h c hc)

/-- Above its cells a memory reads as unlisted. -/
theorem memRead_above_cells {sp : Space} {m : Memory} {n p : Nat} (h : ∀ c ∈ m, c.1 < n) (hp : n ≤ p) :
    memRead sp m p = unlisted sp := by
  rw [← memBelow_eq_self h, memRead_below_above sp m hp]

/-! ## Commands -/

theorem step_idle {s : State} (h : s.status ≠ .running) : step s = .next (idleStep s) := if_neg h

section Commands
variable {s : State} {b : Buffers}

theorem idleStep_accepted {c : Command} {t : State} (hcmd : s.cmd = some c)
    (h : acceptCommand c { s with cmd := none } = .next t) : idleStep s = t := by
  rw [idleStep, hcmd]
  simp only [h]

theorem idleStep_refused {c : Command} {r : Refusal} (hcmd : s.cmd = some c)
    (h : acceptCommand c { s with cmd := none } = .refused r) : idleStep s = { s with cmd := none } := by
  rw [idleStep, hcmd]
  simp only [h]

theorem acceptCommand_running (c : Command) (h : s.status = .running) :
    acceptCommand c s = .refused .commandWhileRunning := if_pos h

variable (hidle : s.status ≠ .running)
include hidle

theorem acceptCommand_start (hdisjoint : b.disjoint = true) (hsrc : b.src.length < 2 ^ 64) (hdst : b.dstCap < 2 ^ 64) :
    acceptCommand (.start b) s = .next (startState b s) := by
  simp only [acceptCommand, if_neg hidle, hdisjoint, Bool.true_eq_false, if_false]
  exact if_neg (by omega)

theorem acceptCommand_start_refused (h : b.disjoint = false ∨ 2 ^ 64 ≤ b.src.length ∨ 2 ^ 64 ≤ b.dstCap) :
    ∃ r, acceptCommand (.start b) s = .refused r := by
  simp only [acceptCommand, if_neg hidle]
  split
  · exact ⟨_, rfl⟩
  · next hdisjoint => exact ⟨_, if_pos (h.resolve_left hdisjoint)⟩

/-- RESUME is accepted exactly when each of its tests passes (R470 to R472). -/
theorem acceptCommand_resume_cases :
    (acceptCommand (.resume b) s = .next (resumeState b s) ∧ (s.status = .srcEmpty ∨ s.status = .dstFull) ∧
      b.disjoint = true ∧ b.src.length < 2 ^ 64 ∧ b.dstCap < 2 ^ 64 ∧ srcExtends b s = true ∧ s.dstCap ≤ b.dstCap ∧
      b.dstKept = true) ∨
    ((∃ r, acceptCommand (.resume b) s = .refused r) ∧
      ((s.status ≠ .srcEmpty ∧ s.status ≠ .dstFull) ∨ b.disjoint = false ∨ 2 ^ 64 ≤ b.src.length ∨ 2 ^ 64 ≤ b.dstCap ∨
        srcExtends b s = false ∨ b.dstCap < s.dstCap ∨ b.dstKept = false)) := by
  simp only [acceptCommand, if_neg hidle]
  split
  · next h => exact .inr ⟨⟨_, rfl⟩, .inl h⟩
  split
  · next h => exact .inr ⟨⟨_, rfl⟩, .inr (.inl h)⟩
  split
  · next h => exact .inr ⟨⟨_, rfl⟩, by tauto⟩
  split
  · next h => exact .inr ⟨⟨_, rfl⟩, by tauto⟩
  split
  · next h => exact .inr ⟨⟨_, rfl⟩, by tauto⟩
  split
  · next h => exact .inr ⟨⟨_, rfl⟩, by tauto⟩
  · refine .inl ⟨rfl, by tauto, ?_, by omega, by omega, ?_, by omega, ?_⟩ <;> rwa [← Bool.not_eq_false]

end Commands

/-! ## The old SRC in the new one -/

/-- Buffers that are found to extend SRC begin with its bytes (R472). -/
theorem srcByte_of_srcExtends {s : State} {b : Buffers} (h : srcExtends b s = true) :
    s.srcLen ≤ b.src.length ∧ ∀ p < s.srcLen, b.src[p]? = srcByte s p := by
  simp only [srcExtends, Bool.and_eq_true, decide_eq_true_eq] at h
  obtain ⟨hlen, hload⟩ := h
  refine ⟨hlen, fun p hp => ?_⟩
  have hread := memRead_supplied (bs := b.src.take s.srcLen) (p := p) (by rw [List.length_take]; omega)
  rw [srcByte, if_pos hp, ← hload, hread, List.getElem?_take_of_lt hp]

/-- Buffers that begin with the bytes of a canonical SRC are found to extend it. -/
theorem srcExtends_of_srcByte {s : State} {b : Buffers} (hwf : Memory.wf .src s.src = true)
    (hcells : ∀ c ∈ s.src, c.1 < s.srcLen) (h : ∀ p < s.srcLen, b.src[p]? = srcByte s p) : srcExtends b s = true := by
  have hlen : s.srcLen ≤ b.src.length := by
    by_contra hshort
    have hlast := h b.src.length (not_le.1 hshort)
    rw [List.getElem?_eq_none le_rfl] at hlast
    exact srcByte_ne_none (not_le.1 hshort) hlast.symm
  have htake : (b.src.take s.srcLen).length = s.srcLen := by rw [List.length_take]; omega
  simp only [srcExtends, Bool.and_eq_true, decide_eq_true_eq]
  refine ⟨hlen, memory_ext (memLoad_wf _ rfl 0) hwf fun p => ?_⟩
  by_cases hp : p < s.srcLen
  · rw [memRead_supplied (by omega), List.getElem?_take_of_lt hp, h p hp, srcByte, if_pos hp]
  · rw [memRead_load_outside _ _ _ _ _ (.inr (by omega)), memRead_above_cells hcells (not_lt.1 hp)]
    rfl

/-! ## The ports and the observation -/

theorem dstBytes_length (s : State) (n p : Nat) : (dstBytes s n p).length = n := by
  induction n generalizing p with
  | zero => rfl
  | succ n ih => rw [dstBytes, List.length_cons, ih]

theorem dstBytes_getElem? {s : State} {n i : Nat} (p : Nat) (hi : i < n) : (dstBytes s n p)[i]? = some (dstRead s (p + i)) := by
  induction n generalizing p i with
  | zero => exact absurd hi i.not_lt_zero
  | succ n ih =>
    cases i with
    | zero => rfl
    | succ i => rw [dstBytes, List.getElem?_cons_succ, ih (p + 1) (by omega), Nat.add_right_comm, Nat.add_assoc]

section Ports
variable {s : State}

theorem readPorts_of_code {c : Int} (hrun : s.status ≠ .running) (hc : statusCode s.status = some c) :
    readPorts s = some ⟨c, s.cause, s.dstPos, s.srcPos⟩ := by
  rw [readPorts, if_neg hrun, hc]

theorem readDst_eq (h : ¬ (s.status = .running ∨ s.status = .unstarted)) (p : Nat) : readDst s p = dstRead s p := if_neg h

theorem observe_final (h : ¬ (s.status = .running ∨ s.status = .unstarted)) (hunspec : s.status ≠ .unspec) :
    observe (.next s) = some (.final s.status s.cause s.dstPos s.srcPos (dstBytes s s.dstPos 0)) := by
  rw [observe, if_neg h, if_neg hunspec]

theorem dstRead_written {p : Nat} {v : Byte} (hp : p < s.dstCap) (hv : memRead .dst s.dst p = some v) :
    dstRead s p = some v := by
  rw [dstRead, if_pos hp, hv]

/-- What the host observes of a run that has ended, by its status. -/
theorem wrapperResult_final (h : ¬ (s.status = .running ∨ s.status = .unstarted)) (hunspec : s.status ≠ .unspec) :
    wrapperResult (observe (.next s)) =
      if s.status = .ok ∨ s.status = .dstFull then some s.dstPos else some 0 := by
  rw [observe_final h hunspec]
  cases hst : s.status <;> simp_all [wrapperResult]

end Ports

end Sys2Proof.Machine

namespace Sys2Proof.Proofs.HostSide
open Sys2Proof.Machine

/-! ## The statements of the family -/

/-- Settles O57: START builds the state anew over the supplied buffers. -/
theorem startResets : Obligations.StartResets := by
  unfold Obligations.StartResets
  intro s b hidle hcmd hdisjoint hsrc hdst
  have haccept := acceptCommand_start (s := { s with cmd := none }) hidle hdisjoint hsrc hdst
  refine ⟨startState b { s with cmd := none }, by rw [step_idle hidle, idleStep_accepted hcmd haccept], rfl, rfl, rfl, rfl, rfl,
    rfl, rfl, rfl, fun i => ⟨rfl, rfl⟩, fun p => rfl, fun p => srcByte_supplied rfl rfl p, rfl, rfl, rfl⟩

/-- Settles O58: the old SRC is found in the new one, and dropping the bytes of DST at or above `dst_pos` drops none. -/
theorem resumeKeepsAllOtherState : Obligations.ResumeKeepsAllOtherState := by
  unfold Obligations.ResumeKeepsAllOtherState
  intro s b hmem hstopped hcmd hdisjoint hkept hsrc hdst hold hcap
  obtain ⟨hwf, -, -, hcells, hbelow, -, -⟩ := hmem
  have hidle : s.status ≠ .running := by rcases hstopped with h | h <;> simp [h]
  have hextends := srcExtends_of_srcByte (s := { s with cmd := none }) hwf hcells hold
  have haccept : acceptCommand (.resume b) { s with cmd := none } = .next (resumeState b { s with cmd := none }) := by
    rcases acceptCommand_resume_cases (s := { s with cmd := none }) (b := b) hidle with h | ⟨-, hrefused⟩
    · exact h.1
    · simp only [hdisjoint, hkept, hextends, Bool.true_eq_false, false_or, or_false] at hrefused
      rcases hrefused with hb | hb | hb | hb
      · exact absurd hstopped (by simpa using hb)
      · exact absurd hb hsrc.not_ge
      · exact absurd hb hdst.not_ge
      · exact absurd hb hcap.not_gt
  refine ⟨resumeState b { s with cmd := none }, by rw [step_idle hidle, idleStep_accepted hcmd haccept], ?_,
    fun p => srcByte_supplied rfl rfl p⟩
  rw [resumeState, slop]
  simp only [memBelow_eq_self hbelow]

/-- Settles O59: a refusal leaves the state without the command. -/
theorem refusedCommandsChangeNothing : Obligations.RefusedCommandsChangeNothing := by
  unfold Obligations.RefusedCommandsChangeNothing
  intro s
  refine ⟨fun hrun c => ⟨if_pos hrun, acceptCommand_running c hrun⟩, fun hidle hcmd => ?_, fun b hidle hcmd hbad => ?_,
    fun b hidle hcmd hbad => ?_⟩
  · rw [step_idle hidle, idleStep, hcmd]
  · obtain ⟨r, hr⟩ := acceptCommand_start_refused (s := { s with cmd := none }) hidle hbad
    rw [step_idle hidle, idleStep_refused hcmd hr]
  · rcases acceptCommand_resume_cases (s := { s with cmd := none }) (b := b) hidle with h | ⟨⟨r, hr⟩, -⟩
    · obtain ⟨-, hstopped, hdisjoint, hsrc, hdst, hextends, hcap, hkept⟩ := h
      obtain ⟨hlen, hold⟩ := srcByte_of_srcExtends hextends
      rcases hbad with hb | hb | hb | hb | hb | ⟨p, hp, hb⟩ | hb | hb
      · exact absurd hstopped (by simpa using hb)
      · rw [hdisjoint] at hb; cases hb
      · exact absurd hb hsrc.not_ge
      · exact absurd hb hdst.not_ge
      · exact absurd hb hlen.not_gt
      · exact absurd (hold p hp) hb
      · exact absurd hb hcap.not_gt
      · rw [hkept] at hb; cases hb
    · rw [step_idle hidle, idleStep_refused hcmd hr]

/-- Settles O60: what the host reads is decided by the status alone. -/
theorem statusCodesAndWrapperResult : Obligations.StatusCodesAndWrapperResult := by
  unfold Obligations.StatusCodesAndWrapperResult
  refine ⟨rfl, rfl, rfl, rfl, rfl, rfl, fun s => ⟨fun hnone => ?_, fun hunspec => ?_, fun c hrun hunspec hc => ?_⟩, fun f => rfl,
    fun cfg src c hempty => if_pos hempty, fun cfg src c o hc hsrc ho => ?_⟩
  · refine ⟨?_, fun p => if_pos hnone, if_pos hnone⟩
    rcases hnone with h | h <;> simp [readPorts, h, statusCode]
  · refine ⟨⟨_, _, readPorts_of_code (by simp [hunspec]) (by rw [hunspec]; rfl)⟩, ?_⟩
    simp [observe, hunspec]
  · have hvalid : ¬ (s.status = .running ∨ s.status = .unstarted) := by
      rintro (h | h)
      · exact hrun h
      · rw [h] at hc; cases hc
    refine ⟨readPorts_of_code hrun hc, fun p v hp hv => ?_, fun p hp => ?_, _, observe_final hvalid hunspec,
      dstBytes_length s _ _, fun p hp => ?_⟩
    · rw [readDst_eq hvalid, dstRead_written hp hv]
    · rw [readDst_eq hvalid, dstRead, if_neg hp.not_gt]
    · rw [dstBytes_getElem? 0 hp, readDst_eq hvalid, Nat.zero_add]
  · have hcall : decompress cfg src c = wrapperResult (observe o) := by
      rw [decompress, if_neg (by simp [hc, hsrc]), ho]
    rw [hcall]
    refine ⟨fun t ht hst => ?_, fun t ht hst => ?_, fun f hf => ?_⟩
    · have hfinal := wrapperResult_final (s := t) (by rcases hst with h | h <;> simp [h]) (by rcases hst with h | h <;> simp [h])
      rw [ht, hfinal, if_pos hst]
    · have hfinal := wrapperResult_final (s := t) (by rcases hst with h | h <;> simp [h]) (by rcases hst with h | h <;> simp [h])
      rw [ht, hfinal, if_neg (by rcases hst with h | h <;> simp [h])]
    · rw [hf]
      rfl

end Sys2Proof.Proofs.HostSide

/-! PROOFS. What every running step leaves alone: where each instruction and each action comes from, the frame that every
operation keeps, and from that the frame of the step. -/

namespace Sys2Proof.Machine

/-! ## Where the core's next act comes from -/

/-- The ways a running core comes to what it does next (45_dispatcher.md R380, R398). -/
inductive Comes (s : State) : Fetched → Prop
  | header {bs : List Byte} {i : Instr} (ready : s.phase = .ready) (blk : s.blk = .none) (bytes : blockBytes s = some bs)
      (decodes : decodeBlock bs = .instr i) : Comes s (.instr i)
  | noHeader {bs : List Byte} {r : Reject} (ready : s.phase = .ready) (blk : s.blk = .none) (bytes : blockBytes s = some bs)
      (decodes : decodeBlock bs = .reject r) : Comes s (.reject r)
  | opcode {bs : List Byte} {i : Instr} (ready : s.phase = .ready) (blk : s.blk = .lzvn) (done : s.vnL = 0 ∧ s.vnM = 0)
      (bytes : opcodeBytes s = some bs) (decodes : decodeLzvn bs = .instr i) : Comes s (.instr i)
  | noOpcode {bs : List Byte} {r : Reject} (ready : s.phase = .ready) (blk : s.blk = .lzvn) (done : s.vnL = 0 ∧ s.vnM = 0)
      (bytes : opcodeBytes s = some bs) (decodes : decodeLzvn bs = .reject r) : Comes s (.reject r)
  | remainder (ready : s.phase = .ready) (blk : s.blk = .lzvn) (pending : s.vnL ≠ 0 ∨ s.vnM ≠ 0) :
      Comes s (.action .vnRemainder)
  | raw (ready : s.phase = .ready) (blk : s.blk = .raw) : Comes s (.action .rawStep)
  | sourceCheck (ready : s.phase = .ready) (blk : s.blk = .v1 ∨ s.blk = .v2) (short : sourceShort s = true) :
      Comes s (.action .sourceCheckFails)
  | blockEnd (ready : s.phase = .ready) (blk : s.blk = .v1 ∨ s.blk = .v2) (there : sourceShort s = false)
      (done : s.L = 0 ∧ s.M = 0) (last : s.nRem = 0) : Comes s (.action .blockEnd)
  | lVal (ready : s.phase = .ready) (blk : s.blk = .v1 ∨ s.blk = .v2) (there : sourceShort s = false)
      (done : s.L = 0 ∧ s.M = 0) (more : s.nRem ≠ 0) : Comes s (.instr .lVal)
  | pending (ready : s.phase = .ready) (blk : s.blk = .v1 ∨ s.blk = .v2) (there : sourceShort s = false)
      (pending : s.L ≠ 0 ∨ s.M ≠ 0) : Comes s (.action .runExecute)
  | freqCode {r : FreqReader} (phase : s.phase = .freqs) (window : freqWindow s = some r) :
      Comes s (.instr (decodeFreq r.acc))
  | freqFault (phase : s.phase = .freqs) (window : freqWindow s = none) : Comes s (.fault .srcOob)
  | setup (phase : s.phase = .setup) : Comes s (.action .runSetup)
  | litSym (phase : s.phase = .lits) (more : s.litIdx < litGoal s) : Comes s (.instr .litSym)
  | lmdInit (phase : s.phase = .lits) (done : litGoal s ≤ s.litIdx) : Comes s (.action .runLmdInit)
  | mVal (phase : s.phase = .mVal) : Comes s (.instr .mVal)
  | dVal (phase : s.phase = .dVal) : Comes s (.instr .dVal)
  | copy (phase : s.phase = .copy) : Comes s (.action .runExecute)

theorem comes_triplet {s : State} (hready : s.phase = .ready) (hblk : s.blk = .v1 ∨ s.blk = .v2) :
    Comes s (fetchTriplet s) := by
  unfold fetchTriplet
  cases hshort : sourceShort s with
  | true => exact .sourceCheck hready hblk hshort
  | false =>
    rw [if_neg Bool.false_ne_true]
    split
    · next hdone =>
      split
      · next hlast => exact .blockEnd hready hblk hshort hdone hlast
      · next hmore => exact .lVal hready hblk hshort hdone hmore
    · next hpending => exact .pending hready hblk hshort (by omega)

theorem comes_ready {s : State} (hready : s.phase = .ready) : Comes s (fetchReady s) := by
  unfold fetchReady
  cases hblk : s.blk with
  | none =>
    obtain ⟨bs, hbs, -⟩ := blockBytes_exists s
    simp only [hbs, fetchDecoded, decode]
    cases hdec : decodeBlock bs with
    | instr i => exact .header hready hblk hbs hdec
    | reject r => exact .noHeader hready hblk hbs hdec
  | raw => exact .raw hready hblk
  | lzvn =>
    dsimp only
    split
    · next hpending => exact .remainder hready hblk hpending
    · next hdone =>
      obtain ⟨bs, hbs⟩ := lzvnWindow_exists s
      simp only [opcodeBytes_eq hbs, fetchDecoded, decode]
      cases hdec : decodeLzvn (bs.take 3) with
      | instr i => exact .opcode hready hblk (by omega) (opcodeBytes_eq hbs) hdec
      | reject r => exact .noOpcode hready hblk (by omega) (opcodeBytes_eq hbs) hdec
  | v1 => exact comes_triplet hready (.inl hblk)
  | v2 => exact comes_triplet hready (.inr hblk)

theorem fetch_comes (s : State) : Comes s (fetch s) := by
  unfold fetch
  cases hphase : s.phase with
  | ready => exact comes_ready hphase
  | freqs =>
    dsimp only
    cases hr : freqWindow s with
    | none => exact .freqFault hphase hr
    | some r => exact .freqCode hphase hr
  | setup => exact .setup hphase
  | lits =>
    dsimp only
    split
    · next hmore => exact .litSym hphase hmore
    · next hdone => exact .lmdInit hphase (not_lt.1 hdone)
  | mVal => exact .mVal hphase
  | dVal => exact .dVal hphase
  | copy => exact .copy hphase

/-! ## The frame -/

/-- What a step from `s` to `t` keeps: SRC, the capacities, the parameters, the command port and `eos_seen`; the cursors do not
go back, the bytes of DST below `dst_pos` stay, the memories stay sound and `dst_pos` inside DST, and the run does not end with
OK. Where `T` holds the tables stay too. -/
structure StepFrame (T : Prop) (s t : State) : Prop where
  cfg : t.cfg = s.cfg := by rfl
  src : t.src = s.src := by rfl
  srcLen : t.srcLen = s.srcLen := by rfl
  dstCap : t.dstCap = s.dstCap := by rfl
  cmd : t.cmd = s.cmd := by rfl
  eosSeen : t.eosSeen = s.eosSeen := by rfl
  srcPos : s.srcPos ≤ t.srcPos := by exact le_rfl
  dstPos : s.dstPos ≤ t.dstPos := by exact le_rfl
  below : ∀ p < s.dstPos, memRead .dst t.dst p = memRead .dst s.dst p := by exact fun _ _ => rfl
  mem : MemInv s → MemInv t := by exact id
  dstRoom : s.dstPos ≤ s.dstCap → t.dstPos ≤ t.dstCap := by exact id
  tables : T → t.tLit = s.tLit ∧ t.tL = s.tL ∧ t.tM = s.tM ∧ t.tD = s.tD := by exact fun _ => ⟨rfl, rfl, rfl, rfl⟩
  status : t.status = s.status ∨ t.status = .srcEmpty ∨ t.status = .dstFull ∨ t.status = .malformed := by exact .inl rfl

section Frames
variable {T : Prop} {α β : Type}

theorem StepFrame.trans {s t u : State} (h : StepFrame T s t) (h' : StepFrame T t u) : StepFrame T s u where
  cfg := h'.cfg.trans h.cfg
  src := h'.src.trans h.src
  srcLen := h'.srcLen.trans h.srcLen
  dstCap := h'.dstCap.trans h.dstCap
  cmd := h'.cmd.trans h.cmd
  eosSeen := h'.eosSeen.trans h.eosSeen
  srcPos := h.srcPos.trans h'.srcPos
  dstPos := h.dstPos.trans h'.dstPos
  below p hp := (h'.below p (hp.trans_le h.dstPos)).trans (h.below p hp)
  mem hm := h'.mem (h.mem hm)
  dstRoom hd := h'.dstRoom (h.dstRoom hd)
  tables hT := by
    obtain ⟨h1, h2, h3, h4⟩ := h.tables hT
    obtain ⟨h1', h2', h3', h4'⟩ := h'.tables hT
    exact ⟨h1'.trans h1, h2'.trans h2, h3'.trans h3, h4'.trans h4⟩
  status := by
    rcases h'.status with hst | hst
    · rw [hst]
      exact h.status
    · exact .inr hst

/-- The operation, from `s`, keeps the frame. -/
abbrev Res.Frames (T : Prop) (s : State) (r : Res α) : Prop := r.Yields (fun _ => StepFrame T s) (StepFrame T s)

theorem Res.Frames.bind {s : State} {r : Res α} {k : α → State → Res β} (h : r.Frames T s)
    (hk : ∀ a s1, (k a s1).Frames T s1) : (r.bind k).Frames T s :=
  Res.Yields.bind h fun a s1 h1 => (hk a s1).mono (fun _ _ => h1.trans) fun _ => h1.trans

/-- An update before an operation. -/
theorem Res.Frames.after {s s1 : State} {r : Res α} (h : r.Frames T s1) (h1 : StepFrame T s s1) : r.Frames T s :=
  h.mono (fun _ _ => h1.trans) fun _ => h1.trans

theorem stopRun_frame {s t : State} {st : Status} (h : StepFrame T s t) (hst : st = .srcEmpty ∨ st = .dstFull) :
    StepFrame T s (stopRun st t) :=
  h.trans { status := .inr (hst.imp_right .inl) }

theorem raiseMalformed_frame {s t : State} (c : Cause) (h : StepFrame T s t) : StepFrame T s (raiseMalformed c t) :=
  h.trans { status := .inr (.inr (.inr rfl)) }

theorem StepFrame.refl (s : State) : StepFrame T s s := {}

end Frames

/-! ## The frame of each operation -/

section OperationFrames
variable {T : Prop} (s : State)

theorem setReader_stepFrame (w : ReaderId) (r : BitReader) : StepFrame T s (setReader w r s) := by
  cases w <;> exact {}

theorem readerInit_frames (w : ReaderId) (n : Int) (e lo : Nat) : (readerInit w n e lo s).Frames T s := by
  rcases readerInit_outcome w n e lo s with ⟨r, -, -, h⟩ | ⟨r, h⟩ | ⟨-, h⟩
  · rw [h s rfl rfl rfl]
    exact .ok (setReader_stepFrame s w r)
  · rw [h s rfl rfl rfl]
    exact .ended (raiseMalformed_frame _ (setReader_stepFrame s w r))
  · rw [h s rfl rfl]
    exact .fault

theorem flush_frames (w : ReaderId) : (flush w s).Frames T s := by
  refine .of (fun _ t hok => ?_) fun t hended => ?_
  · obtain ⟨-, v, -, rfl⟩ := flush_ok hok
    exact setReader_stepFrame s w _
  · obtain ⟨rfl, -⟩ := flush_ended hended
    exact raiseMalformed_frame _ (.refl s)

theorem pull_frames (w : ReaderId) (n : Nat) : (pull w n s).Frames T s := by
  refine .of (fun b t hok => ?_) fun t hended => (pull_ne_ended w n s t hended).elim
  obtain ⟨-, -, rfl⟩ := pull_eq_ok.1 hok
  exact setReader_stepFrame s w _

theorem decodeSym_frames (st : Nat) : (decodeSym st s).Frames T s := by
  rw [decodeSym]
  exact .ite (fun _ => .fault) fun _ => (pull_frames s _ _).bind fun _ s1 => .ok (.refl s1)

theorem decodeVal_frames (t : List ValEntry) (st : Nat) : (decodeVal t st s).Frames T s := by
  rw [decodeVal]
  exact .ite (fun _ => .fault) fun _ => (pull_frames s _ _).bind fun _ s1 => .ok (.refl s1)

theorem litWrite_frames (i : Nat) (v : Byte) : (litWrite i v s).Frames T s := by
  rw [litWrite]
  refine .ite (fun hi => .ok { mem := fun hm => ?_ }) fun _ => .fault
  obtain ⟨hsrc, hdst, hlit, hsrcCells, hdstCells, hlitCells, hfilled⟩ := hm
  have hcells : ∀ c ∈ memWrite .lit s.lit i v, c.1 < litBufSize := memWrite_cells (P := (· < litBufSize)) hlitCells hi v
  exact ⟨hsrc, hdst, memWrite_wf hlit i v, hsrcCells, hdstCells, hcells, hfilled⟩

theorem litSymbol_frames : (litSymbol s).Frames T s := by
  have hflush : (if s.litIdx % 4 = 0 then flush .litrd s else .ok () s).Frames T s :=
    .ite (fun _ => flush_frames s .litrd) fun _ => .ok (.refl s)
  rw [litSymbol]
  exact hflush.bind fun _ s1 => (decodeSym_frames s1 _).bind fun _ s2 => (litWrite_frames s2 _ _).bind fun _ s3 => .ok {}

theorem literalLength_frames : (literalLength s).Frames T s := by
  rw [literalLength]
  exact (flush_frames s .lmd).bind fun _ s1 => (decodeVal_frames s1 _ _).bind fun _ s2 =>
    .ite (fun _ => .ended (raiseMalformed_frame _ {})) fun _ => .ok {}

theorem matchLength_frames : (matchLength s).Frames T s := by
  rw [matchLength]
  exact (flush_frames s .lmd).bind fun _ s1 => (decodeVal_frames s1 _ _).bind fun _ s2 => .ok {}

theorem matchDistance_frames : (matchDistance s).Frames T s := by
  rw [matchDistance]
  exact (flush_frames s .lmd).bind fun _ s1 => (decodeVal_frames s1 _ _).bind fun _ s2 => .ok {}

theorem freqsDone_frames : (freqsDone s).Frames T s := by
  rw [freqsDone]
  exact .ite (fun _ => .ended (raiseMalformed_frame _ (.refl s))) fun _ => .ok {}

theorem freqCount_frames (n v : Nat) : (freqCount n v s).Frames T s := by
  rw [freqCount]
  cases freqWindow s with
  | none => exact .fault
  | some r =>
    exact .ite (fun _ => .ended (raiseMalformed_frame _ {})) fun _ => .ite (fun _ => .ok {}) fun _ =>
      (freqsDone_frames _).after {}

theorem afterBuild_frames (overflow : Bool) : (afterBuild overflow s).Frames T s := by
  rw [afterBuild]
  exact .ite (fun _ => .ended (raiseMalformed_frame _ (.refl s))) fun _ => .ok (.refl s)

/-- The builds are the one operation that changes the tables. -/
theorem buildTables_frames : (buildTables s).Frames False s := by
  rw [buildTables]
  exact ((afterBuild_frames _ _).after { tables := nofun }).bind fun _ s1 =>
    ((afterBuild_frames _ _).after { tables := nofun }).bind fun _ s2 =>
    ((afterBuild_frames _ _).after { tables := nofun }).bind fun _ s3 =>
    (afterBuild_frames _ _).after { tables := nofun }

theorem litInit_frames : (litInit s).Frames T s := by
  have hcleared : StepFrame T s { s with lit := [] } := {
    mem := fun ⟨hsrc, hdst, _, hsrcCells, hdstCells, _, hfilled⟩ =>
      ⟨hsrc, hdst, rfl, hsrcCells, hdstCells, List.forall_mem_nil _, hfilled⟩ }
  rw [litInit]
  exact ((readerInit_frames _ _ _ _ _).after hcleared).bind fun _ s1 => .ok {}

theorem hdrFail_stepFrame (v : BitVec 14) : StepFrame T s { s with hdrFail := v } := {}

theorem setupStep_frames : (setupStep s).Frames False s := by
  have hvalidate (s : State) : (validate s).Frames False s := by
    rw [validate]
    exact .ite (fun _ => .ended (raiseMalformed_frame _ (hdrFail_stepFrame s _))) fun _ => .ok (hdrFail_stepFrame s _)
  have hbody (s : State) : (bodyCheck s).Frames False s := by
    rw [bodyCheck]
    exact .ite (fun _ => .ended (stopRun_frame (.refl s) (.inl rfl))) fun _ => .ok (.refl s)
  rw [setupStep]
  refine (hvalidate s).bind fun _ s1 => (hbody s1).bind fun _ s2 => (buildTables_frames s2).bind fun _ s3 => ?_
  exact litInit_frames s3

theorem lmdInit_frames : (lmdInit s).Frames T s := by
  rcases readerInit_outcome .lmd s.hdr.lmdBits (bodyPos s + s.hdr.nLitPayload + s.hdr.nLmdPayload) 0 s with
    ⟨r, -, -, h⟩ | ⟨r, h⟩ | ⟨-, h⟩
  · rw [lmdInit_ok (h s rfl rfl rfl)]
    exact .ok { srcPos := by simp only; omega }
  · rw [lmdInit_ended (h s rfl rfl rfl)]
    exact .ended (raiseMalformed_frame _ (setReader_stepFrame s _ r))
  · simp only [lmdInit, h s rfl rfl]
    exact .fault

/-- Copied bytes lie at or above `dst_pos`, and the slop drops bytes above the new cursor only. -/
theorem copied_frames {r : Res Unit} {n : Nat} {k : State → State} (h : r.Yields (fun _ => CopyFrame n s.dstPos s) (StepFrame T s))
    (hdst : ∀ m, (k { s with dst := m }).dst = m) (hpos : ∀ m, (k { s with dst := m }).dstPos = s.dstPos + n)
    (hrest : ∀ m, StepFrame T s { k { s with dst := m } with dst := s.dst, dstPos := s.dstPos }) :
    (r.bind fun _ s1 => .ok () (slop (k s1))).Frames T s := by
  refine Res.Yields.bind h fun _ s1 hcopy => .ok ?_
  obtain ⟨hkept, hnew, -⟩ := hcopy.below
  have hcap := (hrest s1.dst).dstCap
  rw [hcopy.only_dst]
  have hread (p : Nat) : memRead .dst (slop (k { s with dst := s1.dst })).dst p =
      memRead .dst (memBelow s1.dst (s.dstPos + n)) p := by
    rw [slop_dst, hdst, hpos]
  refine { hrest s1.dst with
    dstPos := ?dstPos, below := fun p hp => (hread p).trans (hkept p hp), mem := fun hm => ?mem, dstRoom := fun hd => ?dstRoom }
  case dstPos =>
    rw [slop_dstPos, hpos]
    exact Nat.le_add_right ..
  case mem =>
    obtain ⟨hsrc, -, hlit, hsrcCells, -, hlitCells, -⟩ := (hrest s1.dst).mem hm
    obtain ⟨-, hwf, -, -, -, -, hfilled⟩ := hm
    refine ⟨hsrc, ?_, hlit, hsrcCells, memBelow_cells _ _, hlitCells, fun p hp => ?_⟩
    · rw [slop_dst, hdst]
      exact memBelow_wf (hcopy.wf hwf) _
    · rw [slop_dstPos, hpos] at hp
      rw [hread]
      by_cases hold : p < s.dstPos
      · rw [hkept p hold]
        exact hfilled p hold
      · obtain ⟨i, rfl⟩ := Nat.exists_eq_add_of_le (not_lt.1 hold)
        rw [hnew i (by omega)]
        exact hcopy.written i (by omega)
  case dstRoom =>
    have hroom := hcopy.room
    rw [slop_dstPos, slop_dstCap, hpos]
    simp only at hcap ⊢
    omega

theorem vnLiterals_frames (off n : Nat) : (vnLiterals off n s).Frames T s :=
  copied_frames s (copyFromSrc_frame _ _ _ s) (fun _ => rfl) (fun _ => rfl) fun _ => { srcPos := Nat.le_add_right .. }

theorem vnMatch_frames (n : Nat) : (vnMatch n s).Frames T s :=
  copied_frames s (copyFromDst_frame _ _ _ s) (fun _ => rfl) (fun _ => rfl) fun _ => {}

theorem copyLit_frames (n : Nat) : (copyLit n s).Frames T s :=
  copied_frames s (copyFromLit_frame _ _ _ s) (fun _ => rfl) (fun _ => rfl) fun _ => {}

theorem copyMatch_frames (d n : Nat) : (copyMatch d n s).Frames T s :=
  copied_frames s (copyFromDst_frame _ _ _ s) (fun _ => rfl) (fun _ => rfl) fun _ => {}

theorem stepRaw_frames : (stepRaw s).Frames T s := by
  rw [stepRaw]
  refine .ite (fun _ => .ok {}) fun _ => .ite (fun _ => .ended (stopRun_frame (.refl s) (.inl rfl))) fun _ =>
    .ite (fun _ => .ended (stopRun_frame (.refl s) (.inr rfl))) fun _ => ?_
  rw [rawCopy]
  exact copied_frames s (copyFromSrc_frame _ _ _ s) (fun _ => rfl) (fun _ => rfl) fun _ => { srcPos := Nat.le_add_right .. }

theorem copyMatchOnly_frames (m da : Nat) : (copyMatchOnly m da s).Frames T s := by
  rw [copyMatchOnly]
  exact .ite (fun _ => (vnMatch_frames s _).bind fun _ s1 => .ok (.refl s1)) fun _ =>
    (vnMatch_frames s _).bind fun _ s1 => .ok {}

theorem copyLiteral_frames (opcLen l sa da : Nat) : (copyLiteral opcLen l sa da s).Frames T s := by
  rw [copyLiteral]
  exact .ite (fun _ => .ok (.refl s)) fun _ => .ite (fun _ => (vnLiterals_frames s _ _).bind fun _ s1 => .ok (.refl s1)) fun _ =>
    (vnLiterals_frames s _ _).bind fun _ s1 => .ok {}

theorem copyLM_frames (opcLen l m da : Nat) : (copyLM opcLen l m da s).Frames T s := by
  rw [copyLM]
  exact .ite (fun _ => (vnLiterals_frames s _ _).bind fun _ s1 => .ite (fun _ => .ok (.refl s1)) fun _ =>
    copyMatchOnly_frames s1 _ _) fun _ => (vnLiterals_frames s _ _).bind fun _ s1 => .ok {}

theorem vnTake_frame (ns : Nat) : StepFrame T s (vnTake ns 0 s) := { srcPos := Nat.le_add_right .. }

theorem matchOpcode_frames (opcLen m : Nat) : (matchOpcode opcLen m s).Frames T s := by
  rw [matchOpcode]
  exact .ite (fun _ => .ok (.refl s)) fun _ => .ite (fun _ => .ok (vnTake_frame s _)) fun _ =>
    (copyMatchOnly_frames _ _ _).after (vnTake_frame s _)

theorem vnResume_frames : (vnResume s).Frames T s := by
  rw [vnResume]
  exact .ite (fun _ => (copyLiteral_frames _ _ _ _ _).after {}) fun _ =>
    .ite (fun _ => (copyMatchOnly_frames _ _ _).after {}) fun _ => (copyLM_frames _ _ _ _ _).after {}

theorem account_frames (r : VnStop) : (account r s).Frames T s := by
  rcases account_cases r s with h | h | h | h | ⟨c, h⟩ <;> rw [h]
  · exact .ok (.refl s)
  · exact .ok {}
  · exact .ended (stopRun_frame (.refl s) (.inl rfl))
  · exact .ended (stopRun_frame (.refl s) (.inr rfl))
  · exact .ended (raiseMalformed_frame c (.refl s))

theorem vnFinish_frames {s : State} {r : Res VnStop} (h : r.Frames T s) : (vnFinish r).Frames T s :=
  h.bind fun r s1 => account_frames s1 r

theorem execute_frames : (execute s).Frames T s := by
  have hfast (d : Nat) : (fastCopy d s).Frames T s := by
    rw [fastCopy]
    exact (copyLit_frames s _).bind fun _ s1 => (copyMatch_frames s1 _ _).bind fun _ s2 => .ok {}
  have hmatch (d rem : Nat) (s : State) : (slowMatch d rem s).Frames T s := by
    rw [slowMatch]
    exact .ite (fun _ => (copyMatch_frames s _ _).bind fun _ s1 => .ok {}) fun _ =>
      (copyMatch_frames s _ _).bind fun _ s1 => .ended (stopRun_frame {} (.inr rfl))
  have hslow (d : Nat) : (slowCopy d s).Frames T s := by
    rw [slowCopy]
    exact .ite (fun _ => (copyLit_frames s _).bind fun _ s1 => (hmatch _ _ _).after {}) fun _ =>
      (copyLit_frames s _).bind fun _ s1 => .ended (stopRun_frame {} (.inr rfl))
  rw [execute]
  split
  · exact .ended (raiseMalformed_frame _ (.refl s))
  · exact .ite (fun _ => .ended (raiseMalformed_frame _ (.refl s))) fun _ => .ite (fun _ => hfast _) fun _ => hslow _

end OperationFrames

/-! ## The frame of the step -/

section StepFrames
variable {s : State}

theorem exec_lzvn_frame {T : Prop} {i : Instr} (hctx : i.ctx = .lzvn) : Leaves (StepFrame T s) (exec i s) := by
  have short {r : Res VnStop} {c : Prop} [Decidable c] (h : r.Frames T s) : (if c then .ok .src s else r).Frames T s :=
    .ite (fun _ => .ok (.refl s)) fun _ => h
  have withD (k l m d : Nat) : (copyLM k l m (vnDA s) { s with vnD := d }).Frames T s := (copyLM_frames _ _ _ _ _).after {}
  cases i with
  | smlD l m d => exact (vnFinish_frames (short (withD _ l m d))).leaves
  | medD l m d => exact (vnFinish_frames (short (withD _ l m d))).leaves
  | lrgD l m d => exact (vnFinish_frames (short (withD _ l m d))).leaves
  | preD l m => exact (vnFinish_frames (short (copyLM_frames s _ _ _ _))).leaves
  | smlM m => exact (vnFinish_frames (matchOpcode_frames s _ _)).leaves
  | lrgM m => exact (vnFinish_frames (matchOpcode_frames s _ _)).leaves
  | smlL l => exact (vnFinish_frames (copyLiteral_frames s _ _ _ _)).leaves
  | lrgL l => exact (vnFinish_frames (short (copyLiteral_frames s _ _ _ _))).leaves
  | nop o => exact (vnFinish_frames (short (.ok (vnTake_frame s _)))).leaves
  | eos => exact (vnFinish_frames (short (.ok (vnTake_frame s _)))).leaves
  | udef o =>
    have hudef : (Res.ok VnStop.invalidOp s).Frames T s := .ok (.refl s)
    exact (vnFinish_frames hudef).leaves
  | _ => exact nomatch hctx

theorem exec_header_frame {T : Prop} {i : Instr} (hctx : i.ctx = .block) (heos : i ≠ .bvxEos) :
    Leaves (StepFrame T s) (exec i s) := by
  have short : StepFrame T s (stopRun .srcEmpty s) := stopRun_frame (.refl s) (.inl rfl)
  cases i with
  | bvxEos => exact (heos rfl).elim
  | bvxRaw n => exact Leaves.ite (fun _ => short) fun _ => { srcPos := Nat.le_add_right .. }
  | bvxLzvn n p => exact Leaves.ite (fun _ => short) fun _ => { srcPos := Nat.le_add_right .. }
  | bvx1 h => exact Leaves.ite (fun _ => short) fun _ => {}
  | bvx2 h =>
    exact Leaves.ite (fun _ => short) fun _ => Leaves.ite (fun _ => raiseMalformed_frame _ {}) fun _ =>
      Leaves.ite (fun _ => short) fun _ => Leaves.ite (fun _ => {}) fun _ => {}
  | _ => exact nomatch hctx

theorem exec_freq_frame {T : Prop} {i : Instr} (hctx : i.ctx = .freq) : Leaves (StepFrame T s) (exec i s) := by
  cases i with
  | f2 v => exact (freqCount_frames s 2 v).leaves
  | f3 v => exact (freqCount_frames s 3 v).leaves
  | f5 v => exact (freqCount_frames s 5 v).leaves
  | f8 v => exact (freqCount_frames s 8 v).leaves
  | f14 v => exact (freqCount_frames s 14 v).leaves
  | _ => exact nomatch hctx

theorem decodeLzvn_ctx {bs : List Byte} {i : Instr} (h : decodeLzvn bs = .instr i) : i.ctx = .lzvn := by
  cases bs with
  | nil => cases h
  | cons opc bs =>
    rw [decodeLzvn] at h
    split at h
    · cases h
    · cases h
      exact decodeOpcode_ctx _ _ _

theorem decodeBlock_eq_eos {bs : List Byte} (h : decodeBlock bs = .instr .bvxEos) : 4 ≤ bs.length ∧ leAt bs 0 4 = magicEos := by
  simp only [decodeBlock] at h
  split_ifs at h <;> cases h
  exact ⟨by omega, ‹_›⟩

/-- The step ends the run with OK, at an end-of-stream magic (45_dispatcher.md R382). -/
def StreamEnds (s t : State) : Prop :=
  s.phase = .ready ∧ s.blk = .none ∧ srcRead s s.srcPos 4 = some magicEos ∧
    t = { s with srcPos := s.srcPos + 4, eosSeen := true, status := .ok }

theorem step_eos {bs : List Byte} (hrun : s.status = .running) (hready : s.phase = .ready) (hblk : s.blk = .none)
    (hbs : blockBytes s = some bs) (hdec : decodeBlock bs = .instr .bvxEos) : Leaves (StreamEnds s) (step s) := by
  obtain ⟨hlen, hmagic⟩ := decodeBlock_eq_eos hdec
  have hbytes := srcBytes_length hbs
  have hread := srcRead_eq_leAt (off := 0) (k := 4) hbs (by omega)
  rw [step_of_decodeBlock hrun hready hblk hbs hdec, exec_bvxEos (by omega), leaves_next]
  exact ⟨hready, hblk, by rw [← hmagic]; exact hread, by rw [← hready]⟩

/-- Of the sequencer's actions only the setup changes the tables. -/
theorem runAction_frames (a : Action) : (runAction a s).Frames (a ≠ .runSetup) s := by
  cases a with
  | rawStep => exact stepRaw_frames s
  | vnRemainder => exact vnFinish_frames (vnResume_frames s)
  | sourceCheckFails => exact .ended (stopRun_frame (.refl s) (.inl rfl))
  | blockEnd => exact .ok { srcPos := Nat.le_add_right .. }
  | runExecute => exact execute_frames s
  | runSetup =>
    have widen {t : State} (h : StepFrame False s t) : StepFrame (Action.runSetup ≠ .runSetup) s t :=
      { h with tables := fun hne => (hne rfl).elim }
    exact (setupStep_frames s).mono (fun _ _ => widen) fun _ => widen
  | runLmdInit => exact lmdInit_frames s

theorem runReject_frames {T : Prop} (r : Reject) : (runReject r s).Frames T s := by
  cases r with
  | headerShort => exact .ended (stopRun_frame (.refl s) (.inl rfl))
  | badMagic => exact .ended (raiseMalformed_frame _ (.refl s))
  | opcodeShort => exact account_frames s .src

/-- The setup is the action of its phase and of no other. -/
theorem phase_of_runSetup (h : Comes s (.action .runSetup)) : s.phase = .setup := by
  cases h with
  | setup hsetup => exact hsetup

theorem exec_frame {i : Instr} (h : Comes s (.instr i)) (heos : i ≠ .bvxEos) :
    Leaves (StepFrame (s.phase ≠ .setup) s) (exec i s) := by
  cases h with
  | header hready hblk hbs hdec => exact exec_header_frame (decodeBlock_ctx hdec) heos
  | opcode _ _ _ _ hdec => exact exec_lzvn_frame (decodeLzvn_ctx hdec)
  | freqCode _ _ => exact exec_freq_frame (decodeFreq_ctx _)
  | litSym _ _ => exact (litSymbol_frames s).leaves
  | lVal _ _ _ _ _ => exact (literalLength_frames s).leaves
  | mVal _ => exact (matchLength_frames s).leaves
  | dVal _ => exact (matchDistance_frames s).leaves

theorem step_eos_of_comes (hrun : s.status = .running) (hfetch : fetch s = .instr .bvxEos) : Leaves (StreamEnds s) (step s) := by
  have hcomes := fetch_comes s
  rw [hfetch] at hcomes
  generalize hi : Instr.bvxEos = i at hcomes
  cases hcomes with
  | header hready hblk hbs hdec => exact step_eos hrun hready hblk hbs (hi ▸ hdec)
  | opcode _ _ _ _ hdec => exact nomatch hi ▸ decodeLzvn_ctx hdec
  | freqCode _ _ => exact nomatch hi ▸ decodeFreq_ctx _
  | _ => cases hi

/-- Every running step but the one that ends the stream keeps the frame, and all but the setup keep the tables. -/
theorem step_frame (hrun : s.status = .running) :
    Leaves (fun t => StepFrame (s.phase ≠ .setup) s t ∨ StreamEnds s t) (step s) := by
  have hcomes := fetch_comes s
  cases hfetch : fetch s with
  | instr i =>
    rw [hfetch] at hcomes
    by_cases heos : i = .bvxEos
    · exact (step_eos_of_comes hrun (heos ▸ hfetch)).mono fun _ => .inr
    · rw [step_of_fetch_instr hrun hfetch]
      exact (exec_frame hcomes heos).mono fun _ => .inl
  | action a =>
    rw [hfetch] at hcomes
    rw [step_of_fetch_action hrun hfetch]
    refine (runAction_frames a).leaves.mono fun t h => .inl { h with tables := fun hphase => h.tables ?_ }
    rintro rfl
    exact hphase (phase_of_runSetup hcomes)
  | reject r =>
    rw [step, if_pos hrun, runStep, hfetch]
    exact (runReject_frames r).leaves.mono fun _ => .inl
  | fault f =>
    rw [step, if_pos hrun, runStep, hfetch]
    trivial

end StepFrames
end Sys2Proof.Machine

namespace Sys2Proof.Proofs.Machine
open Sys2Proof.Machine

/-! ## The statements of the family -/

/-- Settles O49: the frame of the step; the end of the stream moves `src_pos` by the four bytes of its magic. -/
theorem runningStepFrame : Obligations.RunningStepFrame := by
  unfold Obligations.RunningStepFrame
  intro s t hrun hstep
  have hframe := step_frame hrun
  rw [hstep, leaves_next] at hframe
  rcases hframe with h | ⟨-, -, -, rfl⟩
  · exact ⟨h.srcPos, h.dstPos, h.below, h.src, h.srcLen, h.dstCap, h.cfg, h.cmd⟩
  · exact ⟨Nat.le_add_right .., le_rfl, fun _ _ => rfl, rfl, rfl, rfl, rfl, rfl⟩

/-- Settles O50: the frame of a step outside the setup holds the tables. -/
theorem tablesChangeOnlyInSetup : Obligations.TablesChangeOnlyInSetup := by
  unfold Obligations.TablesChangeOnlyInSetup
  intro s t hrun hstep hphase
  have hframe := step_frame hrun
  rw [hstep, leaves_next] at hframe
  rcases hframe with h | ⟨-, -, -, rfl⟩
  · exact h.tables hphase
  · exact ⟨rfl, rfl, rfl, rfl⟩

/-- Settles O53: a step that keeps the frame neither ends the run with OK nor sets `eos_seen`. -/
theorem onlyEndOfStreamEndsOk : Obligations.OnlyEndOfStreamEndsOk := by
  unfold Obligations.OnlyEndOfStreamEndsOk
  intro s t hrun hstep hok
  have hframe := step_frame hrun
  rw [hstep, leaves_next] at hframe
  rcases hframe with h | h
  · have hst := h.status
    rcases hok with hok | hok
    · simp [hrun, hok] at hst
    · exact absurd h.eosSeen hok
  · exact h

end Sys2Proof.Proofs.Machine

/-! PROOFS. The entries of a built table: how many bits each takes, and where its next state and its value lie (41_fse.md R185,
R186). -/

namespace Sys2Proof.Machine

/-! ## The entries of a built table -/

section Entries
variable {α : Type} {n : Nat} {mk : Nat → Nat → Nat → α} {e u : α}

theorem mem_fseEntries {fs : List Nat} {first cum : Nat} (h : cum + freqSum fs ≤ n)
    (he : e ∈ (fseEntries n mk fs first cum).1) :
    ∃ i f j, i < first + fs.length ∧ f ≤ n ∧ j < f ∧ e = mk i (occurrence n f j).1 (occurrence n f j).2 := by
  induction fs generalizing first cum with
  | nil => exact absurd he List.not_mem_nil
  | cons f fs ih =>
    rw [freqSum_cons] at h
    rw [fseEntries_cons fs first (by omega), List.mem_append] at he
    rcases he with he | he
    · obtain ⟨j, hj, rfl⟩ := List.mem_map.1 he
      exact ⟨first, f, j, by simp, by omega, List.mem_range.1 hj, rfl⟩
    · obtain ⟨i, f', j, hi, hrest⟩ := ih (by omega) he
      exact ⟨i, f', j, by rw [List.length_cons]; omega, hrest⟩

theorem mem_padTable {es : List α} (he : e ∈ padTable n u es) : e ∈ es ∨ e = u := by
  rcases List.mem_append.1 he with he | he
  · exact .inl he
  · exact .inr (List.eq_of_mem_replicate he)

/-- An entry of a built table is that of an occurrence, or of an unassigned slot. -/
theorem mem_built {fs : List Nat} (h : freqSum fs ≤ n) (he : e ∈ padTable n u (fseEntries n mk fs 0 0).1) :
    (∃ i f j, i < fs.length ∧ f ≤ n ∧ j < f ∧ e = mk i (occurrence n f j).1 (occurrence n f j).2) ∨ e = u := by
  refine (mem_padTable he).imp_left fun he => ?_
  obtain ⟨i, f, j, hi, hrest⟩ := mem_fseEntries (by omega) he
  exact ⟨i, f, j, by omega, hrest⟩

end Entries

section Occurrence
variable {m f j : Nat} (hm : m ≤ 31) (hf : f ≤ 2 ^ m) (hj : j < f)
include hm hf hj

/-- The last next state of an occurrence is a state of the table. -/
theorem occurrence_top_le : (occurrence (2 ^ m) f j).2 + 2 ^ (occurrence (2 ^ m) f j).1 ≤ 2 ^ m := by
  obtain ⟨hocc, -⟩ := Proofs.Fse.occurrencesTileTheStates m f _ _ hm (by omega) hf rfl rfl
  obtain ⟨-, -, htop⟩ := hocc j hj
  have hpos := Nat.two_pow_pos (occurrence (2 ^ m) f j).1
  have hlast := htop _ (Nat.sub_one_lt hpos.ne')
  omega

theorem occurrence_bits_le : (occurrence (2 ^ m) f j).1 ≤ m := by
  have htop := occurrence_top_le hm hf hj
  exact (Nat.pow_le_pow_iff_right (by decide)).1 ((Nat.le_add_left _ _).trans htop)

end Occurrence

section Built
variable {m : Nat} {fs : List Nat} (hm : m ≤ 31) (hsum : freqSum fs ≤ 2 ^ m)
include hm hsum

theorem buildSym_nbits_le : ∀ e ∈ (buildSym (2 ^ m) fs).1, e.nbits ≤ m := by
  intro e he
  rcases mem_built hsum he with ⟨i, f, j, -, hf, hj, rfl⟩ | rfl
  · exact occurrence_bits_le hm hf hj
  · exact m.zero_le

theorem buildSym_inRange (hlen : fs.length ≤ 256) : SymTableInRange (2 ^ m) (buildSym (2 ^ m) fs).1 := by
  refine ⟨(buildSym_laidOut hsum).length, fun e he => ?_⟩
  rcases mem_built hsum he with ⟨i, f, j, hi, hf, hj, rfl⟩ | rfl
  · exact ⟨hi.trans_le hlen, fun _ => occurrence_top_le hm hf hj⟩
  · exact ⟨by decide, nofun⟩

variable {extra base : List Nat}

theorem buildVal_totalBits_le : ∀ e ∈ (buildVal (2 ^ m) extra base fs).1, e.totalBits ≤ m + maxExtra extra := by
  intro e he
  rcases mem_built hsum he with ⟨i, f, j, -, hf, hj, rfl⟩ | rfl
  · exact Nat.add_le_add (occurrence_bits_le hm hf hj) (le_maxExtra extra i)
  · exact Nat.zero_le _

theorem buildVal_inRange (hlen : extra.length = base.length) :
    ValTableInRange (2 ^ m) (valueTop extra base) (buildVal (2 ^ m) extra base fs).1 := by
  refine ⟨(buildVal_laidOut extra base hsum).length, fun e he => ?_⟩
  rcases mem_built hsum he with ⟨i, f, j, -, hf, hj, rfl⟩ | rfl
  · refine ⟨Nat.le_add_left _ _, fun _ => ⟨?_, base_add_le_valueTop extra base hlen i⟩⟩
    simpa [mkVal] using occurrence_top_le hm hf hj
  · exact ⟨le_rfl, nofun⟩

end Built

/-- The tables of a setup whose header passed the check take no more bits than the parameters allow. -/
theorem withTables_tableInv {s : State} (h : HeaderPasses s) : TableInv (withTables s) :=
  ⟨buildSym_nbits_le (by omega) h.litSum, buildVal_totalBits_le (by omega) h.lSum, buildVal_totalBits_le (by omega) h.mSum,
    buildVal_totalBits_le (by omega) h.dSum⟩

/-! ## What a table entry decodes to -/

/-- The value and the next state of a claimed slot (41_fse.md R185, R186). -/
theorem valEntry_inRange {n top b : Nat} {tab : List ValEntry} {e : ValEntry} (h : ValTableInRange n top tab) (he : e ∈ tab)
    (hassigned : e.assigned = true) (hb : b < 2 ^ e.totalBits) :
    e.vbase + b % 2 ^ e.vbits < top ∧ e.delta + b / 2 ^ e.vbits < n := by
  obtain ⟨-, hentry⟩ := h
  obtain ⟨hvbits, hfits⟩ := hentry e he
  obtain ⟨hstate, hvalue⟩ := hfits hassigned
  have hlow := Nat.mod_lt b (Nat.two_pow_pos e.vbits)
  have hhigh : b / 2 ^ e.vbits < 2 ^ (e.totalBits - e.vbits) := by
    rw [Nat.div_lt_iff_lt_mul (Nat.two_pow_pos _), ← Nat.pow_add, Nat.sub_add_cancel hvbits]
    exact hb
  omega

theorem getD_mem_of_assigned {tab : List ValEntry} {st : Nat} (h : (tab.getD st .unassigned).assigned = true) :
    tab.getD st .unassigned ∈ tab := by
  rw [List.getD_eq_getElem?_getD] at h ⊢
  cases hget : tab[st]? with
  | none =>
    rw [hget] at h
    exact nomatch h
  | some e => exact List.mem_of_getElem? hget

end Sys2Proof.Machine

/-! PROOFS. What a running step can do, said once: the ways in which it ends, each with the state it leaves and what is known of
that state, and the proof that every step from a state that meets the invariant ends in one of them. The faults that are left are
those that the rules allow. -/

namespace Sys2Proof.Machine

/-! ## The ways a step ends -/

/-- The state of an LZVN step that has consumed `ns` bytes and produced `nd`, at distance `d` with the remainder `l`, `m`. -/
def vnMoved (s : State) (ns nd d l m : Nat) (mem : Memory) (k : Nat) : State :=
  { s with
    srcPos := s.srcPos + ns, vnPayRem := s.vnPayRem - ns, dstPos := s.dstPos + nd, vnRawRem := s.vnRawRem - nd,
    vnD := d, vnL := l, vnM := m, dst := mem, draws := k }

/-- A distance and two lengths that an opcode can hold or that stood in the registers. -/
structure VnOperands (s : State) (d l m : Nat) : Prop where
  d : d ≤ max 65535 s.vnD
  l : l ≤ max 271 s.vnL
  m : m ≤ max 271 s.vnM

/-- The stop reasons of an LZVN step and the states they come with (44_lzvn.md R323 to R344). -/
inductive VnOut (s : State) : VnStop → State → Prop
  | src : VnOut s .src s
  | invalidOp : VnOut s .invalidOp s
  | cont {ns nd d mem k} (src : ns ≤ vnSA s) (moves : 0 < ns + nd) (operands : VnOperands s d 0 0) (distance : d ≤ s.dstPos + nd) :
      VnOut s .cont (vnMoved s ns nd d 0 0 mem k)
  | invalidD {ns nd d mem k} (src : ns ≤ vnSA s) (operands : VnOperands s d 0 0) :
      VnOut s .invalidD (vnMoved s ns nd d 0 0 mem k)
  | dst {ns nd d l m mem k} (src : ns + l < vnSA s ∨ (l = 0 ∧ ns ≤ vnSA s)) (operands : VnOperands s d l m)
      (distance : l = 0 ∨ m = 0 → d ≤ s.dstPos + nd) (some : l = 0 → m ≠ 0 → d ≠ 0) :
      VnOut s .dst (vnMoved s ns nd d l m mem k)
  | eos {ns} (src : ns ≤ vnSA s) (moves : 0 < ns) : VnOut s .eos (vnTake ns 0 s)

/-- What a running step can do. Each way to end stands with the block and the phase it happens in, the state it leaves, and what
is known of the new values. -/
inductive Effect (s : State) : State → Prop
  -- SRC_EMPTY, or a raise that writes only the transients of the setup and the readers
  | srcEmpty (v : BitVec 14) : Effect s (stopRun .srcEmpty { s with hdrFail := v })
  | raised (c : Cause) (v : BitVec 14) (f : FreqReader) (fs : List Nat) (r r' : BitReader) :
      Effect s (raiseMalformed c { s with hdrFail := v, freq := f, freqs := fs, litrd := r, lmd := r' })
  -- a block start (45_dispatcher.md R381 to R387)
  | eos (ready : s.phase = .ready) (src : 4 ≤ srcAvail s) :
      Effect s (stopRun .ok { s with srcPos := s.srcPos + 4, eosSeen := true })
  | rawStart {n} (ready : s.phase = .ready) (blk : s.blk = .none) (src : 8 ≤ srcAvail s) (n_lt : n < 2 ^ 32) :
      Effect s { s with rawRem := n, srcPos := s.srcPos + 8, blk := .raw }
  | lzvnStart {n p} (ready : s.phase = .ready) (blk : s.blk = .none) (src : 12 ≤ srcAvail s) (n_lt : n < 2 ^ 32)
      (p_lt : p < 2 ^ 32) :
      Effect s { s with vnRawRem := n, vnPayRem := p, vnD := 0, vnL := 0, vnM := 0, srcPos := s.srcPos + 12, blk := .lzvn }
  | setupStart {m h} (ready : s.phase = .ready) (blk : s.blk = .none) (len : 32 ≤ h.hdrLen) (lmd : h.nLmdPayload < 2 ^ 32)
      (lits : h.litFreq.length ≤ symLit) : Effect s { s with magic := m, hdr := h, phase := .setup }
  | freqsStart {m h f} (ready : s.phase = .ready) (blk : s.blk = .none) (len : 32 ≤ h.hdrLen) (lmd : h.nLmdPayload < 2 ^ 32)
      (qend : f.qend ≤ s.srcLen) : Effect s { s with magic := m, hdr := h, freqs := [], freq := f, phase := .freqs }
  | headerRaised (c : Cause) {m h} (ready : s.phase = .ready) : Effect s (raiseMalformed c { s with magic := m, hdr := h })
  -- a RAW block (R390)
  | rawEnd (ready : s.phase = .ready) (blk : s.blk = .raw) : Effect s { s with blk := .none }
  | rawFull (ready : s.phase = .ready) (blk : s.blk = .raw) : Effect s (stopRun .dstFull s)
  | rawCopied {n mem k} (ready : s.phase = .ready) (blk : s.blk = .raw) (pos : 0 < n) (src : n ≤ srcAvail s) :
      Effect s
        { s with srcPos := s.srcPos + n, dstPos := s.dstPos + n, rawRem := s.rawRem - n, dst := mem, draws := k }
  -- an LZVN block (44_lzvn.md)
  | lzvnGoesOn {t} (ready : s.phase = .ready) (blk : s.blk = .lzvn) (out : VnOut s .cont t) : Effect s t
  | lzvnFull {t} (ready : s.phase = .ready) (blk : s.blk = .lzvn) (out : VnOut s .dst t) : Effect s (stopRun .dstFull t)
  | lzvnRaised (c : Cause) {r t} (ready : s.phase = .ready) (out : VnOut s r t) : Effect s (raiseMalformed c t)
  | lzvnEnd {t} (ready : s.phase = .ready) (blk : s.blk = .lzvn) (out : VnOut s .eos t) : Effect s { t with blk := .none }
  -- a triplet of a V1 or V2 block (43_lzfse_block.md section 2)
  | blockEnd (ready : s.phase = .ready) (blk : s.blk = .v1 ∨ s.blk = .v2) (there : sourceShort s = false) :
      Effect s (endBlock s)
  | lVal {r v st} (ready : s.phase = .ready) (blk : s.blk = .v1 ∨ s.blk = .v2) (there : sourceShort s = false)
      (more : s.nRem ≠ 0) (reader : ReaderInv r s.srcLen) (fits : s.litPos + v ≤ litBufSize)
      (range : ValTableInRange s.cfg.nL s.cfg.lTop s.tL → v < s.cfg.lTop ∧ st < s.cfg.nL) :
      Effect s { s with lmd := r, lv := v, lSt := st, phase := .mVal }
  | lValRaised (c : Cause) {r v st} (ready : s.phase = .ready)
      (range : ValTableInRange s.cfg.nL s.cfg.lTop s.tL → v < s.cfg.lTop ∧ st < s.cfg.nL) :
      Effect s (raiseMalformed c { s with lmd := r, lv := v, lSt := st })
  | mVal {r v st} (phase : s.phase = .mVal) (reader : ReaderInv r s.srcLen)
      (range : ValTableInRange s.cfg.nM s.cfg.mTop s.tM → v < s.cfg.mTop ∧ st < s.cfg.nM) :
      Effect s { s with lmd := r, mv := v, mSt := st, phase := .dVal }
  | dVal {r v st} (phase : s.phase = .dVal) (reader : ReaderInv r s.srcLen)
      (range : ValTableInRange s.cfg.nD s.cfg.dTop s.tD → v < s.cfg.dTop ∧ st < s.cfg.nD) :
      Effect s
        { s with
          lmd := r, dSt := st, D := if v = 0 then s.D else some v, L := s.lv, M := s.mv, nRem := s.nRem - 1, phase := .copy }
  | copied {mem k} (blk : s.blk = .v1 ∨ s.blk = .v2) (at_ : AtExecute s) :
      Effect s
        { s with
          dstPos := s.dstPos + s.L + s.M, litPos := s.litPos + s.L, L := 0, M := 0, dst := mem, draws := k, phase := .ready }
  | cut {l m mem k} (blk : s.blk = .v1 ∨ s.blk = .v2) (at_ : AtExecute s) (l_le : l ≤ s.L) :
      Effect s (stopRun .dstFull
        { s with dstPos := s.dstCap, litPos := s.litPos + l, L := s.L - l, M := s.M - m, dst := mem, draws := k })
  -- the frequency stream (42_header.md R239)
  | freqCount {fs f} (phase : s.phase = .freqs) (len : fs.length = s.freqs.length + 1) (more : fs.length < nFreqs)
      (qend : f.qend = s.freq.qend) : Effect s { s with freqs := fs, freq := f }
  | freqsDone {fs f} (phase : s.phase = .freqs) :
      Effect s { s with hdr := withFreqs s.hdr fs, freqs := fs, freq := f, phase := .setup }
  -- the setup (43_lzfse_block.md section 1)
  | setupRaised (c : Cause) {r} (phase : s.phase = .setup) (passes : HeaderPasses s) :
      Effect s (raiseMalformed c { withTables s with hdrFail := 0#14, lit := [], litrd := r })
  | setupDone {r} (phase : s.phase = .setup) (passes : HeaderPasses s)
      (body : bodyPos s + s.hdr.nLitPayload + s.hdr.nLmdPayload ≤ s.srcLen) (reader : ReaderInv r s.srcLen) :
      Effect s
        { withTables s with hdrFail := 0#14, lit := [], litrd := r, ls := s.hdr.litState, litIdx := 0, phase := .lits }
  | litSym {r mem ls} (phase : s.phase = .lits) (more : s.litIdx < litGoal s) (reader : ReaderInv r s.srcLen)
      (bits : (s.litIdx + 1) % 4 ≠ 0 → 56 ≤ r.nbits + s.cfg.litLog.val * ((s.litIdx + 1) % 4)) :
      Effect s { s with litrd := r, lit := mem, ls := ls, litIdx := s.litIdx + 1 }
  | lmdInit {r b} (phase : s.phase = .lits) (reader : ReaderInv r s.srcLen) (blk : b = .v1 ∨ b = .v2) :
      Effect s
        { s with
          lmd := r, lSt := s.hdr.lState, mSt := s.hdr.mState, dSt := s.hdr.dState, L := 0, M := 0, D := none,
          nRem := s.hdr.nMatches, litPos := 0, lmdPay := s.hdr.nLmdPayload, srcPos := bodyPos s + s.hdr.nLitPayload, blk := b,
          phase := .ready }

/-- The outcome is a state that meets `P`, or a fault that the rules allow. -/
inductive Settles (P : State → Prop) : Host.Outcome State Fault Refusal → Prop
  | next {t : State} (h : P t) : Settles P (.next t)
  | fault {f : Fault} (h : f.unreachable = false) : Settles P (.fault f)

/-! ## What the proof takes from the invariant -/

/-- What the invariant says of a running core. -/
structure Runs (s : State) : Prop where
  cfg : s.cfg.Wf
  filled : DstFilled s
  srcPos : s.srcPos ≤ s.srcLen
  dstPos : s.dstPos ≤ s.dstCap
  cause : s.cause = none
  lzvn : LzvnInv s
  distance : s.D ≠ some 0
  litEnd : s.litPos + s.L ≤ litBufSize
  valueEnd : s.phase = .mVal ∨ s.phase = .dVal → s.litPos + s.lv ≤ litBufSize
  triplet : s.phase = .mVal ∨ s.phase = .dVal ∨ s.phase = .copy → (s.blk = .v1 ∨ s.blk = .v2) ∧ sourceShort s = false
  lmd : ReaderInv s.lmd s.srcLen
  freqs : s.phase = .freqs → s.freq.qend ≤ s.srcLen
  lits : s.phase = .lits →
    s.hdr.nLiterals ≤ maxLiterals ∧ bodyPos s + s.hdr.nLitPayload + s.hdr.nLmdPayload ≤ s.srcLen ∧
    ReaderInv s.litrd s.srcLen ∧
    (s.litIdx % 4 ≠ 0 → 56 ≤ s.litrd.nbits + s.cfg.litLog.val * (s.litIdx % 4))
  tables : TableInv s

theorem Inv.runs {s : State} (h : Inv s) (hlive : Live s) : Runs s := by
  obtain ⟨hcfg, ⟨-, -, -, -, -, -, hfilled⟩, ⟨hsrc, hdst⟩, hcause, -, hregs⟩ := h
  obtain ⟨hlzvn, ⟨hD, hlit, hval, htriplet, hlmd⟩, ⟨hfreqs, hlits⟩, htab⟩ := hregs hlive
  have hnone : s.cause = none := by
    by_contra hsome
    rcases hlive with hst | hst | hst <;> simp [CauseInv, hst, hsome] at hcause
  exact ⟨hcfg, hfilled, hsrc, hdst, hnone, hlzvn, hD, hlit, hval, htriplet, hlmd, hfreqs, hlits, htab⟩


/-! ## The block headers -/

/-- The operands of a header that a register takes fit it. -/
def HeaderFits : Instr → Prop
  | .bvxRaw n => n < 2 ^ 32
  | .bvxLzvn n p => n < 2 ^ 32 ∧ p < 2 ^ 32
  | .bvx1 h => h.nLmdPayload < 2 ^ 32
  | .bvx2 h => h.nLmdPayload < 2 ^ 32
  | _ => True

theorem leAt_lt (bs : List Byte) (off n : Nat) : leAt bs off n < 2 ^ (8 * n) :=
  (leNat_lt _).trans_le (Nat.pow_le_pow_right (by decide) (Nat.mul_le_mul_left 8 (List.length_take_le ..)))

theorem decodeBlock_fits {bs : List Byte} {i : Instr} (h : decodeBlock bs = .instr i) : HeaderFits i := by
  simp only [decodeBlock] at h
  split_ifs at h <;> cases h
  · trivial
  · exact leAt_lt bs 4 4
  · exact ⟨leAt_lt bs 4 4, leAt_lt bs 8 4⟩
  · exact leAt_lt bs 24 4
  · exact (Nat.mod_lt _ (by decide) : _ < 2 ^ 20).trans (by decide)

section Headers
variable {s : State}

theorem srcEmpty_effect (s : State) : Effect s (stopRun .srcEmpty s) := .srcEmpty s.hdrFail

theorem raised_effect (c : Cause) (s : State) : Effect s (raiseMalformed c s) :=
  .raised c s.hdrFail s.freq s.freqs s.litrd s.lmd

theorem exec_header_settles {i : Instr} (hready : s.phase = .ready) (hblk : s.blk = .none) (hctx : i.ctx = .block)
    (hfits : HeaderFits i) : Settles (Effect s) (exec i s) := by
  have short (n : Nat) {o : Host.Outcome State Fault Refusal} (h : n ≤ srcAvail s → Settles (Effect s) o) :
      Settles (Effect s) (if srcAvail s < n then .next (stopRun .srcEmpty s) else o) := by
    split
    · exact .next (srcEmpty_effect s)
    · next hall => exact h (not_lt.1 hall)
  cases i with
  | bvxEos => exact short 4 fun hall => .next (.eos hready hall)
  | bvxRaw n => exact short 8 fun hall => .next (.rawStart hready hblk hall hfits)
  | bvxLzvn n p => exact short 12 fun hall => .next (.lzvnStart hready hblk hall hfits.1 hfits.2)
  | bvx1 h => exact short 770 fun _ => .next (.setupStart hready hblk (show 32 ≤ 770 by decide) hfits (List.length_take_le ..))
  | bvx2 h =>
    refine short 32 fun _ => ?_
    dsimp only
    split
    · exact .next (.headerRaised _ hready)
    · next hsize =>
      refine short h.headerSize fun hall => ?_
      have hlen : 32 ≤ h.headerSize := not_lt.1 hsize
      split
      · exact .next (.setupStart hready hblk hlen hfits (List.length_take_le ..))
      · refine .next (.freqsStart hready hblk hlen hfits ?_)
        simp only [srcAvail] at hall ⊢
        omega
  | _ => exact nomatch hctx

end Headers

/-! ## The frequency stream -/

section Freqs
variable {s : State}

/-- The refill stays inside SRC and keeps the end of the stream. -/
theorem freqRefill_exists (fuel : Nat) {r : FreqReader} (hend : r.qend ≤ s.srcLen) :
    ∃ r', freqRefill s fuel r = some r' ∧ r'.qend = r.qend := by
  induction fuel generalizing r with
  | zero => exact ⟨r, rfl, rfl⟩
  | succ fuel ih =>
    rw [freqRefill]
    split
    · next hmore =>
      obtain ⟨b, hb⟩ := Option.ne_none_iff_exists'.1 (srcByte_ne_none (s := s) (hmore.1.trans_le hend))
      rw [hb]
      exact ih hend
    · exact ⟨r, rfl, rfl⟩

theorem freqWindow_exists (hend : s.freq.qend ≤ s.srcLen) : ∃ r, freqWindow s = some r ∧ r.qend = s.freq.qend :=
  freqRefill_exists 4 hend

theorem freqCount_settles {n v : Nat} (hphase : s.phase = .freqs) (hend : s.freq.qend ≤ s.srcLen) :
    Settles (Effect s) (freqCount n v s).out := by
  obtain ⟨r, hr, hqend⟩ := freqWindow_exists hend
  by_cases hn : r.nb < n
  · rw [freqCount_tooLong hr hn]
    exact .next (.raised _ s.hdrFail r s.freqs s.litrd s.lmd)
  · by_cases hlen : (s.freqs ++ [v]).length < 360
    · rw [freqCount_next hr (not_lt.1 hn) rfl rfl hlen]
      exact .next (.freqCount hphase List.length_append hlen hqend)
    · rw [freqCount_last hr (not_lt.1 hn) rfl rfl (not_lt.1 hlen), freqsDone]
      split
      · exact .next (.raised _ s.hdrFail _ _ s.litrd s.lmd)
      · exact .next (.freqsDone hphase)

theorem exec_freq_settles {i : Instr} (hctx : i.ctx = .freq) (hphase : s.phase = .freqs) (hend : s.freq.qend ≤ s.srcLen) :
    Settles (Effect s) (exec i s) := by
  have hcount {n v : Nat} (hi : IsFreqCode i n v) : Settles (Effect s) (exec i s) := by
    rw [exec_freqCode hi]
    exact freqCount_settles hphase hend
  cases i with
  | f2 v => exact hcount (.inl ⟨rfl, rfl⟩)
  | f3 v => exact hcount (.inr (.inl ⟨rfl, rfl⟩))
  | f5 v => exact hcount (.inr (.inr (.inl ⟨rfl, rfl⟩)))
  | f8 v => exact hcount (.inr (.inr (.inr (.inl ⟨rfl, rfl⟩))))
  | f14 v => exact hcount (.inr (.inr (.inr (.inr ⟨rfl, rfl⟩))))
  | _ => exact nomatch hctx

end Freqs

/-! ## The bit readers and the values -/

/-- A flush of a sound reader leaves a full one, or raises BITSTREAM_FLUSH. -/
theorem flush_outcome {w : ReaderId} {s : State} (h : ReaderInv (reader w s) s.srcLen) :
    (∃ r, ReaderInv r s.srcLen ∧ 56 ≤ r.nbits ∧ flush w s = .ok () (setReader w r s)) ∨
    flush w s = .ended (raiseMalformed .bitstreamFlush s) := by
  obtain ⟨hbits, hacc, hpos⟩ := h
  cases hflush : flush w s with
  | ok u t =>
    obtain ⟨hlo, hhi, hacc'⟩ := flush_ok_full hflush hbits hacc
    obtain ⟨-, v, -, rfl⟩ := flush_ok hflush
    rw [reader_setReader_same] at hlo hhi hacc'
    exact .inl ⟨_, ⟨hhi, hacc', (Nat.sub_le ..).trans hpos⟩, hlo, rfl⟩
  | ended t =>
    obtain ⟨rfl, -⟩ := flush_ended hflush
    exact .inr rfl
  | fault f =>
    by_cases hshort : (reader w s).pos < (reader w s).lower + flushAdd (reader w s).nbits / 8
    · rw [flush_short hshort] at hflush
      cases hflush
    · obtain ⟨v, hv⟩ := srcRead_below_exists (k := flushAdd (reader w s).nbits / 8) (by omega) hpos
      simp [flush, hshort, hv] at hflush

/-- A pull that the reader has the bits for. -/
theorem pull_outcome {w : ReaderId} {n : Nat} {s : State} (h : ReaderInv (reader w s) s.srcLen) (hn : n ≤ (reader w s).nbits) :
    ∃ b r, b < 2 ^ n ∧ ReaderInv r s.srcLen ∧ r.nbits = (reader w s).nbits - n ∧ pull w n s = .ok b (setReader w r s) :=
  ⟨_, _, topBits_lt h.2.1 hn, pulled_readerInv h n, rfl, pull_takes hn⟩

theorem getD_of_forall {α : Type} {P : α → Prop} {l : List α} {d : α} (h : ∀ e ∈ l, P e) (hd : P d) (i : Nat) :
    P (l.getD i d) := by
  rw [List.getD_eq_getElem?_getD]
  cases hget : l[i]? with
  | none => exact hd
  | some e => exact h e (List.mem_of_getElem? hget)

/-- A value decoded with a full reader: the slot is unassigned, or the value and the next state lie in the table's ranges. -/
theorem decodeVal_outcome {s : State} {tab : List ValEntry} {k : Nat} (st : Nat) (h : ReaderInv s.lmd s.srcLen)
    (hfull : 56 ≤ s.lmd.nbits) (htab : ∀ e ∈ tab, e.totalBits ≤ k) (hk : k ≤ 56) :
    decodeVal tab st s = .fault .unassignedSlot ∨
    ∃ v st' r, ReaderInv r s.srcLen ∧ (∀ n top, ValTableInRange n top tab → v < top ∧ st' < n) ∧
      decodeVal tab st s = .ok (v, st') { s with lmd := r } := by
  cases hassigned : (tab.getD st .unassigned).assigned with
  | false => exact .inl (decodeVal_unassigned hassigned)
  | true =>
    have hbits : (tab.getD st .unassigned).totalBits ≤ k :=
      getD_of_forall (P := fun e : ValEntry => e.totalBits ≤ k) htab (Nat.zero_le _) st
    obtain ⟨b, r, hb, hr, -, hpull⟩ := pull_outcome (w := .lmd) h (hbits.trans (hk.trans hfull))
    exact .inr ⟨_, _, r, hr, fun n top hrange => valEntry_inRange hrange (getD_mem_of_assigned hassigned) hassigned hb,
      decodeVal_ok rfl hassigned hpull⟩

/-- The flush and the decode that start each of the three values. -/
theorem value_outcome {s : State} {tab : List ValEntry} {k : Nat} (st : Nat) (hlmd : ReaderInv s.lmd s.srcLen)
    (htab : ∀ e ∈ tab, e.totalBits ≤ k) (hk : k ≤ 56) :
    flush .lmd s = .ended (raiseMalformed .bitstreamFlush s) ∨
    ∃ r1, flush .lmd s = .ok () { s with lmd := r1 } ∧
      (decodeVal tab st { s with lmd := r1 } = .fault .unassignedSlot ∨
       ∃ v st' r, ReaderInv r s.srcLen ∧ (∀ n top, ValTableInRange n top tab → v < top ∧ st' < n) ∧
         decodeVal tab st { s with lmd := r1 } = .ok (v, st') { s with lmd := r }) := by
  rcases flush_outcome (w := .lmd) hlmd with ⟨r1, hr1, hfull, hflush⟩ | hflush
  · exact .inr ⟨r1, hflush, decodeVal_outcome (s := { s with lmd := r1 }) st hr1 hfull htab hk⟩
  · exact .inl hflush

section Values
variable {s : State} (h : Runs s)
include h

theorem literalLength_settles (hready : s.phase = .ready) (hblk : s.blk = .v1 ∨ s.blk = .v2) (hthere : sourceShort s = false)
    (hmore : s.nRem ≠ 0) : Settles (Effect s) (literalLength s).out := by
  obtain ⟨-, -, -, -, -, -, -, hbits, -, -⟩ := h.cfg
  obtain ⟨-, htab, -, -⟩ := h.tables
  rcases value_outcome s.lSt h.lmd htab hbits with hflush | ⟨r1, hflush, hdec | ⟨v, st, r, hr, hrange, hdec⟩⟩
  · simp only [literalLength, hflush, Res.bind_ended]
    exact .next (raised_effect _ s)
  · simp only [literalLength, hflush, Res.bind_ok, hdec, Res.bind_fault]
    exact .fault rfl
  · simp only [literalLength, hflush, Res.bind_ok, hdec]
    split
    · exact .next (.lValRaised _ hready (hrange _ _))
    · next hfits => exact .next (.lVal hready hblk hthere hmore hr (not_lt.1 hfits) (hrange _ _))

theorem matchLength_settles (hphase : s.phase = .mVal) : Settles (Effect s) (matchLength s).out := by
  obtain ⟨-, -, -, -, -, -, -, -, hbits, -⟩ := h.cfg
  obtain ⟨-, -, htab, -⟩ := h.tables
  rcases value_outcome s.mSt h.lmd htab hbits with hflush | ⟨r1, hflush, hdec | ⟨v, st, r, hr, hrange, hdec⟩⟩
  · simp only [matchLength, hflush, Res.bind_ended]
    exact .next (raised_effect _ s)
  · simp only [matchLength, hflush, Res.bind_ok, hdec, Res.bind_fault]
    exact .fault rfl
  · simp only [matchLength, hflush, Res.bind_ok, hdec]
    exact .next (.mVal hphase hr (hrange _ _))

theorem matchDistance_settles (hphase : s.phase = .dVal) : Settles (Effect s) (matchDistance s).out := by
  obtain ⟨-, -, -, -, -, -, -, -, -, hbits⟩ := h.cfg
  obtain ⟨-, -, -, htab⟩ := h.tables
  rcases value_outcome s.dSt h.lmd htab hbits with hflush | ⟨r1, hflush, hdec | ⟨v, st, r, hr, hrange, hdec⟩⟩
  · simp only [matchDistance, hflush, Res.bind_ended]
    exact .next (raised_effect _ s)
  · simp only [matchDistance, hflush, Res.bind_ok, hdec, Res.bind_fault]
    exact .fault rfl
  · simp only [matchDistance, hflush, Res.bind_ok, hdec]
    exact .next (.dVal hphase hr (hrange _ _))

end Values


/-! ## The literal pass and the setup -/

section Literals
variable {s : State} (h : Runs s)
include h

/-- The flush of lane 0 and the bits that the other lanes find are enough for the group (43_lzfse_block.md R271). -/
theorem laneFlush_outcome (hphase : s.phase = .lits) :
    (∃ r, ReaderInv r s.srcLen ∧ 56 ≤ r.nbits + s.cfg.litLog.val * (s.litIdx % 4) ∧
      (if s.litIdx % 4 = 0 then flush .litrd s else .ok () s) = .ok () { s with litrd := r }) ∨
    (if s.litIdx % 4 = 0 then flush .litrd s else .ok () s) = .ended (raiseMalformed .bitstreamFlush s) := by
  obtain ⟨-, -, hreader, hbits⟩ := h.lits hphase
  split
  · rcases flush_outcome (w := .litrd) hreader with ⟨r, hr, hfull, hflush⟩ | hflush
    · exact .inl ⟨r, hr, hfull.trans (Nat.le_add_right ..), hflush⟩
    · exact .inr hflush
  · next hlane => exact .inl ⟨s.litrd, hreader, hbits hlane, rfl⟩

theorem litSymbol_settles (hphase : s.phase = .lits) (hmore : s.litIdx < litGoal s) : Settles (Effect s) (litSymbol s).out := by
  obtain ⟨hlits, -, -, -⟩ := h.lits hphase
  obtain ⟨-, -, -, -, -, -, hlog, -⟩ := h.cfg
  obtain ⟨htab, -⟩ := h.tables
  have hidx : s.litIdx < litBufSize := by
    simp only [litGoal, maxLiterals, litBufSize] at *
    omega
  rcases laneFlush_outcome h hphase with ⟨r1, hr1, hbits, hflush⟩ | hflush
  · cases hassigned : (s.tLit.getD (lane s.ls s.litIdx) .unassigned).assigned with
    | false =>
      simp only [litSymbol, hflush, Res.bind_ok, decodeSym, hassigned, if_true, Res.bind_fault]
      exact .fault rfl
    | true =>
      have hn : (s.tLit.getD (lane s.ls s.litIdx) .unassigned).nbits ≤ s.cfg.litLog.val :=
        getD_of_forall (P := fun e : SymEntry => e.nbits ≤ s.cfg.litLog.val) htab (Nat.zero_le _) _
      have hlane : s.litIdx % 4 ≤ 3 := by omega
      have hlanes := Nat.mul_le_mul_left s.cfg.litLog.val hlane
      obtain ⟨b, r, hb, hr, hleft, hpull⟩ := pull_outcome (w := .litrd) (s := { s with litrd := r1 }) hr1
        (n := (s.tLit.getD (lane s.ls s.litIdx) .unassigned).nbits) (by simp only [reader]; omega)
      rw [litSymbol_ok rfl hassigned hidx hflush hpull]
      refine .next (.litSym hphase hmore hr fun hnext => ?_)
      rw [show (s.litIdx + 1) % 4 = s.litIdx % 4 + 1 by omega, Nat.mul_succ]
      simp only [reader, setReader] at hleft ⊢
      omega
  · rw [litSymbol, hflush]
    exact .next (raised_effect _ s)

theorem lmdInit_settles (hphase : s.phase = .lits) : Settles (Effect s) (lmdInit s).out := by
  obtain ⟨-, hbody, -, -⟩ := h.lits hphase
  rcases readerInit_outcome .lmd s.hdr.lmdBits (bodyPos s + s.hdr.nLitPayload + s.hdr.nLmdPayload) 0 s with
    ⟨r, ⟨-, hhi, hacc⟩, hpos, hinit⟩ | ⟨r, hinit⟩ | ⟨hout, -⟩
  · rw [lmdInit_ok (hinit s rfl rfl rfl)]
    exact .next (.lmdInit hphase ⟨hhi, hacc, hpos.trans hbody⟩ (by split <;> simp))
  · rw [lmdInit_ended (hinit s rfl rfl rfl)]
    exact .next (.raised _ s.hdrFail s.freq s.freqs s.litrd r)
  · exact absurd hbody hout.not_ge

omit h in
theorem setupStep_checked_settles (hphase : s.phase = .setup) (hcheck : hdrCheck s = 0#14) :
    Settles (Effect s) (setupStep s).out := by
  have hpasses := headerPasses_of_check hcheck
  rcases lt_or_ge s.srcLen (bodyPos s + s.hdr.nLitPayload + s.hdr.nLmdPayload) with hshort | hbody
  · rw [setupStep_bodyShort hcheck hshort]
    exact .next (.srcEmpty _)
  · rw [setupStep_passes hcheck hbody]
    rcases readerInit_outcome .litrd s.hdr.literalBits (bodyPos s + s.hdr.nLitPayload) 0 s with
      ⟨r, ⟨-, hhi, hacc⟩, hpos, hinit⟩ | ⟨r, hinit⟩ | ⟨hout, -⟩
    · rw [litInit_ok (s := withTables { s with hdrFail := 0#14 }) (hinit _ rfl rfl rfl)]
      exact .next (.setupDone hphase hpasses hbody ⟨hhi, hacc, hpos.trans (by omega)⟩)
    · rw [litInit_ended (s := withTables { s with hdrFail := 0#14 }) (hinit _ rfl rfl rfl)]
      exact .next (.setupRaised _ hphase hpasses)
    · omega

omit h in
theorem setupStep_settles (hphase : s.phase = .setup) : Settles (Effect s) (setupStep s).out := by
  refine (em (hdrCheck s = 0#14)).elim (setupStep_checked_settles hphase) fun hcheck => ?_
  have hfails : validate s = .ended (raiseMalformed .hdrInvalid { s with hdrFail := hdrCheck s }) := by
    rw [validate]
    exact if_pos hcheck
  rw [setupStep, hfails]
  exact .next (.raised _ _ s.freq s.freqs s.litrd s.lmd)

end Literals

/-! ## RAW -/

theorem stepRaw_settles {s : State} (hready : s.phase = .ready) (hblk : s.blk = .raw) :
    Settles (Effect s) (stepRaw s).out := by
  rw [stepRaw]
  split
  · exact .next (.rawEnd hready hblk)
  · next hrem =>
    split
    · exact .next (srcEmpty_effect s)
    · next hsrc =>
      split
      · exact .next (.rawFull hready hblk)
      · next hdst =>
        obtain ⟨mem, hrun, -⟩ := rawCopy_runs (s := s) rfl (by omega)
        rw [hrun]
        exact .next (.rawCopied hready hblk (by omega) (by omega))

/-! ## The triplet -/

theorem execute_settles {s : State} (h : Runs s) (hblk : s.blk = .v1 ∨ s.blk = .v2) (hat : AtExecute s) :
    Settles (Effect s) (execute s).out := by
  by_cases hbad : s.D = none ∨ ∃ d, s.D = some d ∧ s.dstPos + s.L < d
  · rw [execute_badDistance hbad]
    exact .next (raised_effect _ s)
  · rw [not_or, not_exists] at hbad
    obtain ⟨d, hD⟩ := Option.ne_none_iff_exists'.1 hbad.1
    have hle : d ≤ s.dstPos + s.L := not_lt.1 fun hlt => hbad.2 d ⟨hD, hlt⟩
    have h0 : d ≠ 0 := fun h0 => h.distance (hD.trans (by rw [h0]))
    have hlit := h.litEnd
    by_cases hw : ∀ j < min s.L (s.dstCap - s.dstPos), litWritten s (s.litPos + j) = true
    · by_cases hfits : s.L + s.M ≤ s.dstCap - s.dstPos
      · rw [min_eq_left (by omega)] at hw
        obtain ⟨mem, n, hrun, -⟩ := execute_fits hD hle h0 h.filled h.dstPos hlit hfits hw
        rw [hrun]
        exact .next (.copied hblk hat)
      · obtain ⟨mem, n, hrun, -⟩ := execute_cut hD hle h0 h.filled h.dstPos hlit (not_le.1 hfits) rfl hw
        rw [hrun]
        exact .next (.cut hblk hat (min_le_left ..))
    · push Not at hw
      obtain ⟨j, hj, hstale⟩ := hw
      have hcap := h.dstPos
      rw [execute_copyLit_fault hD hle (copyLit_stale (by omega) (by omega) hj (Bool.eq_false_iff.2 hstale))]
      exact .fault rfl


/-! ## LZVN -/

section Copies
variable {s u : State} {ns nd k l m d da : Nat} {mem : Memory} {n : Nat}

theorem vnMoved_add (s : State) (ns nd d l m : Nat) (mem mem' : Memory) (n n' p l' m' : Nat) :
    { vnMoved s ns nd d l m mem n with
      dstPos := (vnMoved s ns nd d l m mem n).dstPos + p, vnRawRem := (vnMoved s ns nd d l m mem n).vnRawRem - p,
      vnL := l', vnM := m', dst := mem', draws := n' } = vnMoved s ns (nd + p) d l' m' mem' n' := by
  simp only [vnMoved, Nat.add_assoc, Nat.sub_sub]

/-- The match of an opcode, after `ns` bytes were consumed and `nd` produced (R343). -/
theorem copyMatchOnly_out (hu : u = vnMoved s ns nd d 0 0 mem n) (hfilled : DstFilled u) (hroom : HasRoom da u) (h0 : d ≠ 0)
    (hle : d ≤ s.dstPos + nd) (hns : ns ≤ vnSA s) (hmoves : 0 < ns + nd + m) (hops : VnOperands s d 0 m) :
    ∃ r t, copyMatchOnly m da u = .ok r t ∧ VnOut s r t := by
  subst hu
  obtain ⟨hd, -, hm⟩ := hops
  rcases le_or_gt m da with hfits | hcut
  · obtain ⟨mem', hrun, -⟩ := copyMatchOnly_fits (s := vnMoved s ns nd d 0 0 mem n) h0 hle hroom hfilled hfits
    refine ⟨_, _, hrun.trans (congrArg _ (vnMoved_add ..)), .cont hns (by omega) ⟨hd, Nat.zero_le _, Nat.zero_le _⟩ (by omega)⟩
  · obtain ⟨mem', hrun, -⟩ := copyMatchOnly_cut (s := vnMoved s ns nd d 0 0 mem n) h0 hle hroom hfilled hcut
    exact ⟨_, _, hrun.trans (congrArg _ (vnMoved_add ..)),
      .dst (.inr ⟨rfl, hns⟩) ⟨hd, Nat.zero_le _, (Nat.sub_le ..).trans hm⟩ (by omega) fun _ _ => h0⟩

/-- The literals of an opcode without a match (R342). -/
theorem copyLiteral_out (hu : u = vnMoved s 0 0 d 0 0 mem n) (hsa : k + l < vnSA s) (hpos : 0 < k + l)
    (hle : d ≤ s.dstPos) (hops : VnOperands s d l 0) :
    ∃ r t, copyLiteral k l (vnSA s) (vnDA s) u = .ok r t ∧ VnOut s r t := by
  subst hu
  obtain ⟨hd, hl, -⟩ := hops
  have hlits := hasLiterals_of_lt_vnSA hsa
  rcases le_or_gt l (vnDA s) with hfits | hcut
  · obtain ⟨mem', hrun, -⟩ := copyLiteral_fits (s := vnMoved s 0 0 d 0 0 mem n) hsa hlits (hasRoom_vnDA s) hfits
    exact ⟨_, vnMoved s (k + l) l d 0 0 mem' _, hrun, .cont hsa.le (by omega) ⟨hd, Nat.zero_le _, Nat.zero_le _⟩ (by omega)⟩
  · obtain ⟨mem', hrun, -⟩ := copyLiteral_cut (s := vnMoved s 0 0 d 0 0 mem n) hsa hlits (hasRoom_vnDA s) hcut
    exact ⟨_, vnMoved s (k + vnDA s) (vnDA s) d (l - vnDA s) 0 mem' _, hrun,
      .dst (.inl (by omega)) ⟨hd, (Nat.sub_le ..).trans hl, Nat.zero_le _⟩ (by omega) (by omega)⟩

/-- Literals, the distance check, the match (R341). -/
theorem copyLM_out (hu : u = vnMoved s 0 0 d 0 0 mem n) (hfilled : DstFilled u) (hsa : k + l < vnSA s) (hm : m ≠ 0)
    (hops : VnOperands s d l m) : ∃ r t, copyLM k l m (vnDA s) u = .ok r t ∧ VnOut s r t := by
  subst hu
  obtain ⟨hd, hl, hm'⟩ := hops
  have hlits := hasLiterals_of_lt_vnSA hsa
  rcases le_or_gt l (vnDA s) with hfits | hcut
  · by_cases hbad : d = 0 ∨ s.dstPos + l < d
    · obtain ⟨mem', hrun, -⟩ := copyLM_badDistance (m := m) (s := vnMoved s 0 0 d 0 0 mem n) hlits (hasRoom_vnDA s) hfits hbad
      exact ⟨_, vnMoved s (k + l) l d 0 0 mem' _, hrun, .invalidD hsa.le ⟨hd, Nat.zero_le _, Nat.zero_le _⟩⟩
    · obtain ⟨mem', s1, hrun, hs1, ⟨h0, hle, hroom, hfilled'⟩, -⟩ := copyLM_match (m := m) (s := vnMoved s 0 0 d 0 0 mem n)
        hlits (hasRoom_vnDA s) hfits (fun h0 => hbad (.inl h0)) (not_lt.1 fun hlt => hbad (.inr hlt)) hfilled
      rw [hrun]
      exact copyMatchOnly_out (s := s) (ns := k + l) (nd := l) (d := d) (by rw [hs1]; rfl) hfilled' hroom (by omega) (by omega)
        hsa.le (by omega) ⟨hd, Nat.zero_le _, hm'⟩
  · obtain ⟨mem', hrun, -⟩ := copyLM_cutLiterals (m := m) (s := vnMoved s 0 0 d 0 0 mem n) hlits (hasRoom_vnDA s) hcut
    exact ⟨_, vnMoved s (k + vnDA s) (vnDA s) d (l - vnDA s) m mem' _, hrun,
      .dst (.inl (by omega)) ⟨hd, (Nat.sub_le ..).trans hl, hm'⟩ (by omega) (by omega)⟩

end Copies

theorem vnFinish_settles {s t : State} {r : Res VnStop} {stop : VnStop} (hready : s.phase = .ready) (hblk : s.blk = .lzvn)
    (hr : r = .ok stop t) (hout : VnOut s stop t) : Settles (Effect s) (vnFinish r).out := by
  rw [hr, vnFinish_ok]
  cases hout with
  | src =>
    rw [account]
    split
    · exact .next (srcEmpty_effect s)
    · exact .next (raised_effect _ s)
  | invalidOp => exact .next (raised_effect _ s)
  | cont src moves operands distance => exact .next (.lzvnGoesOn hready hblk (.cont src moves operands distance))
  | invalidD src operands => exact .next (.lzvnRaised _ hready (.invalidD src operands))
  | dst src operands distance some =>
    rw [account]
    split
    · exact .next (.lzvnRaised _ hready (.dst src operands distance some))
    · exact .next (.lzvnFull hready hblk (.dst src operands distance some))
  | eos src moves =>
    rw [account]
    split
    · exact .next (.lzvnEnd hready hblk (.eos src moves))
    · exact .next (.lzvnRaised _ hready (.eos src moves))

/-- The six kinds of opcode that an LZVN step tells apart, with what their operands satisfy. -/
inductive OpcodeShape (s : State) : Instr → Prop
  | literalMatch {i k l m d} (is : IsLiteralMatch s i k l m d) (some : m ≠ 0) (operands : VnOperands s d l m) : OpcodeShape s i
  | matchOnly {i k m} (is : IsMatchOnly i k m) (some : m ≠ 0) (operands : VnOperands s s.vnD 0 m) : OpcodeShape s i
  | literalOnly {i k l} (is : IsLiteralOnly i k l) (some : l ≠ 0) (operands : VnOperands s s.vnD l 0) : OpcodeShape s i
  | nop (o : Byte) : OpcodeShape s (.nop o)
  | eos : OpcodeShape s .eos
  | udef (o : Byte) : OpcodeShape s (.udef o)

theorem opcode_shape (s : State) {i : Instr} (hctx : i.ctx = .lzvn) (hwf : i.wf = true) : OpcodeShape s i := by
  have operands {d l m : Nat} (hd : d ≤ 65535 ∨ d ≤ s.vnD) (hl : l ≤ 271) (hm : m ≤ 271) : VnOperands s d l m :=
    ⟨by omega, by omega, by omega⟩
  cases i with
  | smlD l m d =>
    simp only [Instr.wf, lmPair, Bool.and_eq_true, Bool.or_eq_true, decide_eq_true_eq] at hwf
    exact .literalMatch (.inl ⟨rfl, rfl⟩) (by omega) (operands (by omega) (by omega) (by omega))
  | medD l m d =>
    simp only [Instr.wf, Bool.and_eq_true, decide_eq_true_eq] at hwf
    exact .literalMatch (.inr (.inl ⟨rfl, rfl⟩)) (by omega) (operands (by omega) (by omega) (by omega))
  | lrgD l m d =>
    simp only [Instr.wf, lmPair, Bool.and_eq_true, Bool.or_eq_true, decide_eq_true_eq] at hwf
    exact .literalMatch (.inr (.inr (.inl ⟨rfl, rfl⟩))) (by omega) (operands (by omega) (by omega) (by omega))
  | preD l m =>
    simp only [Instr.wf, lmPair, Bool.and_eq_true, Bool.or_eq_true, decide_eq_true_eq] at hwf
    exact .literalMatch (.inr (.inr (.inr ⟨rfl, rfl, rfl⟩))) (by omega) (operands (.inr le_rfl) (by omega) (by omega))
  | smlM m =>
    simp only [Instr.wf, Bool.and_eq_true, decide_eq_true_eq] at hwf
    exact .matchOnly (.inl ⟨rfl, rfl⟩) (by omega) (operands (.inr le_rfl) (by omega) (by omega))
  | lrgM m =>
    simp only [Instr.wf, Bool.and_eq_true, decide_eq_true_eq] at hwf
    exact .matchOnly (.inr ⟨rfl, rfl⟩) (by omega) (operands (.inr le_rfl) (by omega) (by omega))
  | smlL l =>
    simp only [Instr.wf, Bool.and_eq_true, decide_eq_true_eq] at hwf
    exact .literalOnly (.inl ⟨rfl, rfl⟩) (by omega) (operands (.inr le_rfl) (by omega) (by omega))
  | lrgL l =>
    simp only [Instr.wf, Bool.and_eq_true, decide_eq_true_eq] at hwf
    exact .literalOnly (.inr ⟨rfl, rfl⟩) (by omega) (operands (.inr le_rfl) (by omega) (by omega))
  | nop o => exact .nop o
  | eos => exact .eos
  | udef o => exact .udef o
  | _ => exact nomatch hctx

section Lzvn
variable {s : State} (h : Runs s) (hblk : s.blk = .lzvn)
include h hblk

theorem vnResume_out (hpending : s.vnL ≠ 0 ∨ s.vnM ≠ 0) : ∃ r t, vnResume s = .ok r t ∧ VnOut s r t := by
  obtain ⟨hle, h0, hlits⟩ := h.lzvn hblk
  have hops : VnOperands s s.vnD s.vnL s.vnM := ⟨le_max_right .., le_max_right .., le_max_right ..⟩
  have hbase : ({ s with vnL := 0, vnM := 0 } : State) = vnMoved s 0 0 s.vnD 0 0 s.dst s.draws := rfl
  rw [vnResume]
  split
  · next hM =>
    have hL := hpending.resolve_right (not_not_intro hM)
    rw [hM] at hops
    exact copyLiteral_out hbase (by have := hlits hL; omega) (by omega) (hle (.inr hM)) hops
  · next hM =>
    split
    · next hL =>
      rw [hL] at hops
      exact copyMatchOnly_out hbase h.filled (hasRoom_vnDA s) (h0 ⟨hL, hM⟩) (hle (.inl hL)) (Nat.zero_le _) (by omega) hops
    · next hL => exact copyLM_out hbase h.filled (by have := hlits hL; omega) hM hops

variable (hL : s.vnL = 0) (hM : s.vnM = 0)
include hL hM

omit h hblk in
theorem eq_vnMoved (d : Nat) : ({ s with vnD := d } : State) = vnMoved s 0 0 d 0 0 s.dst s.draws :=
  calc ({ s with vnD := d } : State) = vnMoved s 0 0 d s.vnL s.vnM s.dst s.draws := rfl
    _ = vnMoved s 0 0 d 0 0 s.dst s.draws := by rw [hL, hM]

omit h hblk in
theorem consumed_eq_vnMoved (k : Nat) :
    ({ s with srcPos := s.srcPos + k, vnPayRem := s.vnPayRem - k } : State) = vnMoved s k 0 s.vnD 0 0 s.dst s.draws := by
  conv_lhs => rw [show s = vnMoved s 0 0 s.vnD 0 0 s.dst s.draws from eq_vnMoved hL hM s.vnD]
  rfl

theorem exec_literalMatch_settles {i : Instr} {k l m d : Nat} (hready : s.phase = .ready) (hi : IsLiteralMatch s i k l m d)
    (hm : m ≠ 0) (hops : VnOperands s d l m) : Settles (Effect s) (exec i s) := by
  rcases le_or_gt (vnSA s) (k + l) with hshort | hsa
  · rw [exec_short (.inl ⟨k, l, m, d, hi, hshort⟩)]
    exact vnFinish_settles hready hblk rfl .src
  · obtain ⟨r, t, hrun, hout⟩ := copyLM_out (eq_vnMoved hL hM d) h.filled hsa hm hops
    rw [exec_literalMatch_long hi hsa]
    exact vnFinish_settles hready hblk hrun hout

theorem exec_matchOnly_settles {i : Instr} {k m : Nat} (hready : s.phase = .ready) (hi : IsMatchOnly i k m) (hm : m ≠ 0)
    (hops : VnOperands s s.vnD 0 m) : Settles (Effect s) (exec i s) := by
  rcases le_or_gt (vnSA s) k with hshort | hsa
  · rw [exec_short (.inr (.inl ⟨k, m, hi, hshort⟩))]
    exact vnFinish_settles hready hblk rfl .src
  · obtain ⟨hle, -, -⟩ := h.lzvn hblk
    obtain ⟨hd, -, hm'⟩ := hops
    have hbase := consumed_eq_vnMoved hL hM k
    rw [exec_matchOnly hi, matchOpcode_long hsa]
    split
    · exact vnFinish_settles hready hblk (congrArg _ hbase) (.invalidD hsa.le ⟨hd, Nat.zero_le _, Nat.zero_le _⟩)
    · next h0 =>
      obtain ⟨r, t, hrun, hout⟩ := copyMatchOnly_out hbase h.filled (hasRoom_vnDA s) h0 (hle (.inl hL)) hsa.le (by omega)
        ⟨hd, Nat.zero_le _, hm'⟩
      exact vnFinish_settles hready hblk hrun hout

theorem exec_literalOnly_settles {i : Instr} {k l : Nat} (hready : s.phase = .ready) (hi : IsLiteralOnly i k l) (hl : l ≠ 0)
    (hops : VnOperands s s.vnD l 0) : Settles (Effect s) (exec i s) := by
  rcases le_or_gt (vnSA s) (k + l) with hshort | hsa
  · rw [exec_short (.inr (.inr (.inl ⟨k, l, hi, hshort⟩)))]
    exact vnFinish_settles hready hblk rfl .src
  · obtain ⟨hle, -, -⟩ := h.lzvn hblk
    obtain ⟨r, t, hrun, hout⟩ := copyLiteral_out (eq_vnMoved hL hM s.vnD) hsa (by omega) (hle (.inl hL)) hops
    rw [exec_literalOnly hi]
    exact vnFinish_settles hready hblk hrun hout

theorem exec_lzvn_settles {i : Instr} (hready : s.phase = .ready) (hctx : i.ctx = .lzvn) (hwf : i.wf = true) :
    Settles (Effect s) (exec i s) := by
  obtain ⟨hle, -, -⟩ := h.lzvn hblk
  cases opcode_shape s hctx hwf with
  | literalMatch hi hm hops => exact exec_literalMatch_settles h hblk hL hM hready hi hm hops
  | matchOnly hi hm hops => exact exec_matchOnly_settles h hblk hL hM hready hi hm hops
  | literalOnly hi hl hops => exact exec_literalOnly_settles h hblk hL hM hready hi hl hops
  | nop o =>
    rw [exec, execNop]
    split
    · exact vnFinish_settles hready hblk rfl .src
    · next hsa =>
      have hbase : vnTake 1 0 s = vnMoved s 1 0 s.vnD 0 0 s.dst s.draws := consumed_eq_vnMoved hL hM 1
      exact vnFinish_settles hready hblk (congrArg _ hbase)
        (.cont (by omega) (by omega) ⟨le_max_right .., Nat.zero_le _, Nat.zero_le _⟩ (hle (.inl hL)))
  | eos =>
    rw [exec, execEos]
    split
    · exact vnFinish_settles hready hblk rfl .src
    · next hsa => exact vnFinish_settles hready hblk rfl (.eos (not_lt.1 hsa) (by decide))
  | udef o => exact vnFinish_settles hready hblk rfl .invalidOp

end Lzvn

/-! ## The step -/

theorem decodeLzvn_wf {bs : List Byte} {i : Instr} (h : decodeLzvn bs = .instr i) : i.wf = true := by
  cases bs with
  | nil => cases h
  | cons opc bs =>
    rw [decodeLzvn] at h
    split at h
    · cases h
    · cases h
      have fits (n : Nat) : leNat (bs.take n) < 2 ^ (8 * n) :=
        (leNat_lt _).trans_le (Nat.pow_le_pow_right (by decide) (Nat.mul_le_mul_left 8 (List.length_take_le ..)))
      exact decodeOpcode_wf opc (fits 1) (fits 2)

section Step
variable {s : State} (h : Runs s)
include h

theorem exec_settles {i : Instr} (hcomes : Comes s (.instr i)) : Settles (Effect s) (exec i s) := by
  cases hcomes with
  | header hready hblk _ hdec => exact exec_header_settles hready hblk (decodeBlock_ctx hdec) (decodeBlock_fits hdec)
  | opcode hready hblk hdone _ hdec =>
    exact exec_lzvn_settles h hblk hdone.1 hdone.2 hready (decodeLzvn_ctx hdec) (decodeLzvn_wf hdec)
  | freqCode hphase _ => exact exec_freq_settles (decodeFreq_ctx _) hphase (h.freqs hphase)
  | litSym hphase hmore => exact litSymbol_settles h hphase hmore
  | lVal hready hblk hthere _ hmore => exact literalLength_settles h hready hblk hthere hmore
  | mVal hphase => exact matchLength_settles h hphase
  | dVal hphase => exact matchDistance_settles h hphase

theorem runAction_settles (hrun : s.status = .running) {a : Action} (hcomes : Comes s (.action a)) :
    Settles (Effect s) (runAction a s).out := by
  cases hcomes with
  | remainder hready hblk hpending =>
    obtain ⟨r, t, hrun, hout⟩ := vnResume_out h hblk hpending
    exact vnFinish_settles hready hblk hrun hout
  | raw hready hblk => exact stepRaw_settles hready hblk
  | sourceCheck _ _ _ => exact .next (srcEmpty_effect s)
  | blockEnd hready hblk hthere _ _ => exact .next (.blockEnd hready hblk hthere)
  | pending hready hblk hthere hpending => exact execute_settles h hblk ⟨hrun, .inr ⟨hready, hblk, hthere, hpending⟩⟩
  | setup hphase => exact setupStep_settles hphase
  | lmdInit hphase _ => exact lmdInit_settles h hphase
  | copy hphase => exact execute_settles h (h.triplet (.inr (.inr hphase))).1 ⟨hrun, .inl hphase⟩

omit h in
theorem runReject_settles (r : Reject) : Settles (Effect s) (runReject r s).out := by
  cases r with
  | headerShort => exact .next (srcEmpty_effect s)
  | badMagic => exact .next (raised_effect _ s)
  | opcodeShort =>
    show Settles (Effect s) (account .src s).out
    rw [account]
    split
    · exact .next (srcEmpty_effect s)
    · exact .next (raised_effect _ s)

/-- A running step ends in one of the ways of `Effect`, or in a fault that the rules allow. -/
theorem step_settles (hrun : s.status = .running) : Settles (Effect s) (step s) := by
  have hcomes := fetch_comes s
  rw [step, if_pos hrun, runStep]
  cases hfetch : fetch s with
  | instr i => exact exec_settles h (hfetch ▸ hcomes)
  | action a => exact runAction_settles h hrun (hfetch ▸ hcomes)
  | reject r => exact runReject_settles r
  | fault f =>
    rw [hfetch] at hcomes
    cases hcomes with
    | freqFault hphase hwindow =>
      obtain ⟨r, hr, -⟩ := freqWindow_exists (h.freqs hphase)
      rw [hwindow] at hr
      cases hr

end Step
end Sys2Proof.Machine

/-! PROOFS. What every step keeps: each way a running step ends leaves a state of the invariant with its registers in their ranges;
between runs the commands do. -/

namespace Sys2Proof.Machine

theorem Inv.mem {s : State} (h : Inv s) : MemInv s := by
  obtain ⟨-, hmem, -⟩ := h
  exact hmem

/-- A running step from the invariant goes to one of its effects. -/
theorem effect_of_step {s t : State} (h : Inv s) (hrun : s.status = .running) (hstep : step s = .next t) : Effect s t := by
  have hsettles := step_settles (h.runs (.inl hrun)) hrun
  rw [hstep] at hsettles
  cases hsettles with
  | next he => exact he

/-- The memories stay sound and `dst_pos` stays in DST. -/
theorem mem_of_step {s t : State} (h : Inv s) (hrun : s.status = .running) (hstep : step s = .next t) :
    MemInv t ∧ t.dstPos ≤ t.dstCap := by
  have hdst := (h.runs (.inl hrun)).dstPos
  have hframe := step_frame hrun
  rw [hstep, leaves_next] at hframe
  rcases hframe with hframe | ⟨-, -, -, rfl⟩
  · exact ⟨hframe.mem h.mem, hframe.dstRoom hdst⟩
  · exact ⟨h.mem, hdst⟩

/-! ## The invariant -/

/-- A run that is on, or stopped at a step boundary, with sound registers meets the invariant. -/
theorem Runs.inv {t : State} (h : Runs t) (hmem : MemInv t)
    (hst : t.status = .running ∨ ((t.status = .srcEmpty ∨ t.status = .dstFull) ∧ t.phase = .ready)) : Inv t := by
  have hcause : CauseInv t := by
    rcases hst with hst | ⟨hst | hst, -⟩ <;> simp [CauseInv, h.cause, hst]
  have hstop : StopInv t := by
    rcases hst with hst | ⟨-, hready⟩
    · simp [StopInv, hst]
    · exact fun _ => hready
  exact ⟨h.cfg, hmem, ⟨h.srcPos, h.dstPos⟩, hcause, hstop, fun _ =>
    ⟨h.lzvn, ⟨h.distance, h.litEnd, h.valueEnd, h.triplet, h.lmd⟩, ⟨h.freqs, h.lits⟩, h.tables⟩⟩

/-- An end that RESUME does not go on from asks nothing of the registers. -/
theorem inv_of_ended {t : State} (hcfg : t.cfg.Wf) (hmem : MemInv t) (hsrc : t.srcPos ≤ t.srcLen) (hdst : t.dstPos ≤ t.dstCap)
    (hst : (t.status = .ok ∧ t.cause = none) ∨ (t.status = .malformed ∧ t.cause ≠ none)) : Inv t := by
  refine ⟨hcfg, hmem, ⟨hsrc, hdst⟩, ?_, ?_, ?_⟩
  · rcases hst with ⟨hst, hcause⟩ | ⟨hst, hcause⟩ <;> simp [CauseInv, hst, hcause]
  · rcases hst with ⟨hst, -⟩ | ⟨hst, -⟩ <;> simp [StopInv, hst]
  · rcases hst with ⟨hst, -⟩ | ⟨hst, -⟩ <;> simp [Live, hst]

theorem VnOut.srcPos {s t : State} {r : VnStop} (h : VnOut s r t) (hs : s.srcPos ≤ s.srcLen) : t.srcPos ≤ t.srcLen := by
  have hsa : vnSA s ≤ s.srcLen - s.srcPos := by
    simp only [vnSA, vnSrcLim]
    omega
  cases h with
  | src => exact hs
  | invalidOp => exact hs
  | cont src _ _ _ => simp only [vnMoved]; omega
  | invalidD src _ => simp only [vnMoved]; omega
  | dst src _ _ _ => simp only [vnMoved]; omega
  | eos src _ => simp only [vnTake]; omega

theorem VnOut.kept {s t : State} {r : VnStop} (h : VnOut s r t) : t.cfg = s.cfg ∧ t.srcLen = s.srcLen ∧ t.status = s.status := by
  cases h <;> exact ⟨rfl, rfl, rfl⟩

/-- The window left after `ns` bytes. -/
theorem vnSA_of_consumed {s t : State} {ns : Nat} (hlen : t.srcLen = s.srcLen) (hpos : t.srcPos = s.srcPos + ns)
    (hpay : t.vnPayRem = s.vnPayRem - ns) : vnSA t = vnSA s - ns := by
  simp only [vnSA, vnSrcLim, hlen, hpos, hpay] at *
  omega

theorem endBlock_inside {s : State} (hthere : sourceShort s = false) : s.srcPos + s.lmdPay ≤ s.srcLen := by
  rw [sourceShort, Bool.or_eq_false_iff, decide_eq_false_iff_not, decide_eq_false_iff_not, srcAvail] at hthere
  omega

section EffectInv
variable {s t : State} (h : Runs s)
include h

/-- The registers after an LZVN step that goes on or stops at a full window. -/
theorem vnMoved_runs {ns nd d l m k : Nat} {mem : Memory} (hready : s.phase = .ready)
    (hfilled : DstFilled (vnMoved s ns nd d l m mem k)) (hdst : s.dstPos + nd ≤ s.dstCap)
    (hsrc : ns + l < vnSA s ∨ (l = 0 ∧ ns ≤ vnSA s)) (hdist : l = 0 ∨ m = 0 → d ≤ s.dstPos + nd)
    (hsome : l = 0 → m ≠ 0 → d ≠ 0) : Runs (vnMoved s ns nd d l m mem k) := by
  have hsa := vnSA_of_consumed (s := s) (t := vnMoved s ns nd d l m mem k) (ns := ns) rfl rfl rfl
  have hle : vnSA s ≤ s.srcLen - s.srcPos := by
    simp only [vnSA, vnSrcLim]
    omega
  have hpos := h.srcPos
  refine { h with
    filled := hfilled, srcPos := ?_, dstPos := hdst, triplet := ?_, lits := ?_,
    lzvn := fun _ => ⟨hdist, fun ⟨hl, hm⟩ => hsome hl hm, fun hl => ?_⟩ }
  · simp only [vnMoved]
    omega
  · rw [hsa]
    simp only [vnMoved] at hl ⊢
    omega
  · simp [vnMoved, hready]
  · simp [vnMoved, hready]

theorem Effect.srcPos (e : Effect s t) : t.srcPos ≤ t.srcLen := by
  have hsrc := h.srcPos
  cases e with
  | eos _ src => simp only [stopRun_srcPos, stopRun_srcLen, srcAvail] at *; omega
  | rawStart _ _ src _ => simp only [srcAvail] at *; omega
  | lzvnStart _ _ src _ _ => simp only [srcAvail] at *; omega
  | rawCopied _ _ _ src => simp only [srcAvail] at *; omega
  | lzvnGoesOn _ _ out => exact out.srcPos hsrc
  | lzvnFull _ _ out => exact out.srcPos hsrc
  | lzvnRaised _ _ out => exact out.srcPos hsrc
  | lzvnEnd _ _ out => exact out.srcPos hsrc
  | blockEnd _ _ there => exact endBlock_inside there
  | lmdInit phase _ _ =>
    obtain ⟨-, hbody, -, -⟩ := h.lits phase
    exact (Nat.le_add_right ..).trans hbody
  | _ => exact hsrc

omit h in
/-- How the run stands after a step: on, stopped at a step boundary, ended with OK, or ended by a raise. -/
theorem Effect.status (e : Effect s t) (hrun : s.status = .running) (hcause : s.cause = none) :
    t.status = .running ∨ ((t.status = .srcEmpty ∨ t.status = .dstFull) ∧ t.phase = .ready) ∨
    (t.status = .ok ∧ t.cause = none) ∨ (t.status = .malformed ∧ t.cause ≠ none) := by
  cases e with
  | srcEmpty => exact .inr (.inl ⟨.inl rfl, rfl⟩)
  | rawFull | lzvnFull | cut => exact .inr (.inl ⟨.inr rfl, rfl⟩)
  | eos => exact .inr (.inr (.inl ⟨rfl, hcause⟩))
  | raised | headerRaised | lzvnRaised | lValRaised | setupRaised => exact .inr (.inr (.inr ⟨rfl, nofun⟩))
  | lzvnGoesOn _ _ out | lzvnEnd _ _ out => exact .inl (out.kept.2.2.trans hrun)
  | _ => exact .inl hrun

/-- The effects after which the run goes on or can be resumed keep the registers sound. -/
theorem Effect.runs (e : Effect s t) (hlive : Live t) (hfilled : DstFilled t) (hdst : t.dstPos ≤ t.dstCap) : Runs t := by
  have hsrc := e.srcPos h
  cases e with
  | srcEmpty v =>
    exact { h with filled := hfilled, dstPos := hdst, valueEnd := by simp, triplet := by simp, freqs := by simp, lits := by simp }
  | raised | headerRaised | lzvnRaised | lValRaised | setupRaised | eos => simp [Live] at hlive
  | rawStart ready blk src n_lt =>
    exact { h with srcPos := hsrc, lzvn := nofun, triplet := by simp [ready], lits := by simp [ready] }
  | lzvnStart ready blk src n_lt p_lt =>
    exact { h with srcPos := hsrc, lzvn := fun _ => by simp, triplet := by simp [ready], lits := by simp [ready] }
  | setupStart ready blk len lmd lits =>
    exact { h with valueEnd := by simp, triplet := by simp, freqs := by simp, lits := by simp }
  | freqsStart ready blk len lmd qend =>
    exact { h with valueEnd := by simp, triplet := by simp, freqs := fun _ => qend, lits := by simp }
  | rawEnd ready blk => exact { h with lzvn := nofun, triplet := by simp [ready] }
  | rawFull ready blk => exact { h with valueEnd := by simp, triplet := by simp, freqs := by simp, lits := by simp }
  | rawCopied ready blk pos src =>
    exact { h with
      filled := hfilled, srcPos := hsrc, dstPos := hdst, lzvn := by simp [LzvnInv, blk], triplet := by simp [ready],
      lits := by simp [ready] }
  | lzvnGoesOn ready blk out =>
    cases out with
    | cont src moves operands distance =>
      exact vnMoved_runs h ready hfilled hdst (.inr ⟨rfl, src⟩) (fun _ => distance) fun _ hm => (hm rfl).elim
  | lzvnFull ready blk out =>
    cases out with
    | @dst ns nd d l m mem k src operands distance some =>
      exact { vnMoved_runs (mem := mem) (k := k) h ready hfilled hdst src distance some with
        valueEnd := by simp, triplet := by simp, freqs := by simp, lits := by simp }
  | lzvnEnd ready blk out =>
    cases out with
    | eos src moves => exact { h with srcPos := hsrc, lzvn := nofun, triplet := by simp [vnTake, ready], lits := by simp [vnTake, ready] }
  | blockEnd ready blk there =>
    exact { h with srcPos := hsrc, lzvn := nofun, triplet := by simp [ready], lits := by simp [ready] }
  | lVal ready blk there more reader fits range =>
    exact { h with
      valueEnd := fun _ => fits, triplet := fun _ => ⟨blk, there⟩, lmd := reader, freqs := by simp, lits := by simp }
  | mVal phase reader range =>
    exact { h with
      valueEnd := fun _ => h.valueEnd (.inl phase), triplet := fun _ => h.triplet (.inl phase), lmd := reader,
      freqs := by simp, lits := by simp }
  | @dVal r v st phase reader range =>
    have hdist : (if v = 0 then s.D else some v) ≠ some 0 := by
      split
      · exact h.distance
      · next hv => simpa using hv
    exact { h with
      distance := hdist, litEnd := h.valueEnd (.inr phase), valueEnd := by simp,
      triplet := fun _ => h.triplet (.inr (.inl phase)), lmd := reader, freqs := by simp, lits := by simp }
  | copied blk at_ =>
    have hnot : s.blk ≠ .lzvn := by rcases blk with blk | blk <;> simp [blk]
    exact { h with
      filled := hfilled, dstPos := hdst, lzvn := fun hblk => (hnot hblk).elim, litEnd := h.litEnd, valueEnd := by simp,
      triplet := by simp, freqs := by simp, lits := by simp }
  | @cut l m mem k blk at_ l_le =>
    have hnot : s.blk ≠ .lzvn := by rcases blk with blk | blk <;> simp [blk]
    have hlit := h.litEnd
    exact { h with
      filled := hfilled, dstPos := hdst, lzvn := fun hblk => (hnot hblk).elim,
      litEnd := by simp only [stopRun_litPos, stopRun_L]; omega, valueEnd := by simp, triplet := by simp, freqs := by simp,
      lits := by simp }
  | freqCount phase len more qend =>
    exact { h with freqs := fun _ => qend.trans_le (h.freqs phase), lits := by simp [phase] }
  | freqsDone phase => exact { h with valueEnd := by simp, triplet := by simp, freqs := by simp, lits := by simp }
  | setupDone phase passes body reader =>
    exact { h with
      valueEnd := by simp, triplet := by simp, freqs := by simp, tables := withTables_tableInv passes,
      lits := fun _ => ⟨passes.nLiterals, body, reader, by simp⟩ }
  | litSym phase more reader bits =>
    obtain ⟨hlits, hbody, -, -⟩ := h.lits phase
    exact { h with lits := fun _ => ⟨hlits, hbody, reader, bits⟩ }
  | @lmdInit r b phase reader blk =>
    have hnot : b ≠ .lzvn := by rcases blk with blk | blk <;> simp [blk]
    exact { h with
      srcPos := hsrc, lzvn := fun hblk => (hnot hblk).elim, distance := nofun, litEnd := Nat.zero_le _, valueEnd := by simp,
      triplet := by simp, lmd := reader, freqs := by simp, lits := by simp }

end EffectInv

theorem Inv.of_running_step {s t : State} (h : Inv s) (hrun : s.status = .running) (hstep : step s = .next t) : Inv t := by
  have hs := h.runs (.inl hrun)
  have he := effect_of_step h hrun hstep
  obtain ⟨hmem, hdst⟩ := mem_of_step h hrun hstep
  have hsrc := he.srcPos hs
  have hcfg : t.cfg = s.cfg := (Proofs.Machine.runningStepFrame s t hrun hstep).2.2.2.2.2.2.1
  have hwf : t.cfg.Wf := hcfg ▸ hs.cfg
  obtain ⟨-, -, -, -, -, -, hfilled⟩ := id hmem
  rcases he.status hrun hs.cause with hst | ⟨hst, hready⟩ | hst | hst
  · exact (he.runs hs (.inl hst) hfilled hdst).inv hmem (.inl hst)
  · exact (he.runs hs (.inr hst) hfilled hdst).inv hmem (.inr ⟨hst, hready⟩)
  · exact inv_of_ended hwf hmem hsrc hdst (.inl hst)
  · exact inv_of_ended hwf hmem hsrc hdst (.inr hst)


/-! ## Between runs -/

theorem memLoad_cells {sp : Space} {bs : List Byte} {m : Memory} {p n : Nat} (h : ∀ c ∈ m, c.1 < n) (hn : p + bs.length ≤ n) :
    ∀ c ∈ memLoad sp m p bs, c.1 < n := by
  induction bs generalizing m p with
  | nil => exact h
  | cons b bs ih =>
    rw [List.length_cons] at hn
    have hwrite : ∀ c ∈ memWrite sp m p b, c.1 < n := memWrite_cells (P := (· < n)) h (by omega) b
    exact ih hwrite (by omega)

theorem supplied_cells (bs : List Byte) : ∀ c ∈ memLoad .src [] 0 bs, c.1 < bs.length :=
  memLoad_cells (List.forall_mem_nil _) (Nat.zero_add _).le

/-- What a step between runs can do: nothing, drop a command, start a run, or go on with one. -/
theorem idleStep_cases {s : State} (hidle : s.status ≠ .running) :
    idleStep s = s ∨ idleStep s = { s with cmd := none } ∨ (∃ b, idleStep s = startState b { s with cmd := none }) ∨
    ∃ b, (s.status = .srcEmpty ∨ s.status = .dstFull) ∧ srcExtends b s = true ∧ s.dstCap ≤ b.dstCap ∧
      idleStep s = resumeState b { s with cmd := none } := by
  cases hcmd : s.cmd with
  | none => exact .inl (by rw [idleStep, hcmd])
  | some c =>
    cases haccept : acceptCommand c { s with cmd := none } with
    | next t =>
      rw [idleStep_accepted hcmd haccept]
      cases c with
      | start b =>
        simp only [acceptCommand, if_neg hidle] at haccept
        split_ifs at haccept
        cases haccept
        exact .inr (.inr (.inl ⟨b, rfl⟩))
      | resume b =>
        rcases acceptCommand_resume_cases (s := { s with cmd := none }) (b := b) hidle with
          ⟨hnext, hst, -, -, -, hext, hcap, -⟩ | ⟨⟨r, hrefused⟩, -⟩
        · rw [hnext] at haccept
          cases haccept
          exact .inr (.inr (.inr ⟨b, hst, hext, hcap, rfl⟩))
        · rw [hrefused] at haccept
          cases haccept
    | refused r => exact .inr (.inl (idleStep_refused hcmd haccept))
    | fault f =>
      refine .inr (.inl ?_)
      rw [idleStep, hcmd]
      simp only [haccept]

/-- The reset of a core over any SRC and any capacity meets the invariant. -/
theorem initial_inv {cfg : Config} (hcfg : cfg.Wf) (bs : List Byte) (cap k : Nat) :
    Inv { State.initial cfg with src := memLoad .src [] 0 bs, srcLen := bs.length, dstCap := cap, draws := k } := by
  have hreader : ReaderInv .zero bs.length := ⟨Nat.zero_le _, Nat.one_pos, Nat.zero_le _⟩
  have htables : TableInv (State.initial cfg) := by
    refine ⟨fun e he => ?_, fun e he => ?_, fun e he => ?_, fun e he => ?_⟩ <;>
      · rw [List.eq_of_mem_replicate he]
        exact Nat.zero_le _
  have hruns : Runs { State.initial cfg with src := memLoad .src [] 0 bs, srcLen := bs.length, dstCap := cap, draws := k } :=
    { cfg := hcfg, filled := nofun, srcPos := Nat.zero_le _, dstPos := Nat.zero_le _, cause := rfl, lzvn := nofun,
      distance := nofun, litEnd := Nat.zero_le _, valueEnd := by simp [State.initial], triplet := by simp [State.initial],
      lmd := hreader, freqs := nofun, lits := nofun, tables := htables }
  exact hruns.inv ⟨memLoad_wf bs rfl 0, rfl, rfl, supplied_cells bs, List.forall_mem_nil _, List.forall_mem_nil _, nofun⟩ (.inl rfl)

theorem startState_inv {s : State} (hcfg : s.cfg.Wf) (b : Buffers) : Inv (startState b s) :=
  initial_inv hcfg b.src b.dstCap (s.draws + 1)

/-- A resumed run has the registers it stopped with, over a longer SRC and a larger DST. -/
theorem resumeState_inv {s : State} {b : Buffers} (h : Inv s) (hst : s.status = .srcEmpty ∨ s.status = .dstFull)
    (hext : srcExtends b s = true) (hcap : s.dstCap ≤ b.dstCap) : Inv (resumeState b s) := by
  obtain ⟨-, -, -, -, hstop, -⟩ := id h
  have hready := hstop hst
  obtain ⟨-, hdst, hlit, -, hdstCells, hlitCells, hfilled⟩ := h.mem
  have hr := h.runs (.inr hst)
  have hlen := (srcByte_of_srcExtends hext).1
  have hmem : memBelow s.dst s.dstPos = s.dst := memBelow_eq_self hdstCells
  have hsa : vnSA s ≤ vnSA (resumeState b s) := by
    simp only [vnSA, vnSrcLim, resumeState, slop_srcLen, slop_srcPos, slop_vnPayRem]
    omega
  obtain ⟨hbits, hacc, hpos⟩ := hr.lmd
  have hfilled' : DstFilled (resumeState b s) := by
    simpa only [DstFilled, resumeState, slop_dst, slop_dstPos, hmem] using hfilled
  have hruns : Runs (resumeState b s) :=
    { hr with
      filled := hfilled', srcPos := hr.srcPos.trans hlen, dstPos := hr.dstPos.trans hcap, cause := rfl,
      lzvn := fun hblk => by
        obtain ⟨hle, h0, hlits⟩ := hr.lzvn hblk
        exact ⟨hle, h0, fun hl => (hlits hl).trans_le hsa⟩,
      triplet := by simp [resumeState, hready], lmd := ⟨hbits, hacc, hpos.trans hlen⟩,
      freqs := by simp [resumeState, hready], lits := by simp [resumeState, hready] }
  refine hruns.inv ⟨memLoad_wf b.src rfl 0, ?_, hlit, supplied_cells b.src, ?_, hlitCells, hfilled'⟩ (.inl rfl)
  · exact memBelow_wf hdst _
  · exact memBelow_cells _ _

/-- A command dropped from the port leaves the invariant. -/
theorem Inv.dropCommand {s : State} (h : Inv s) : Inv { s with cmd := none } := h

end Sys2Proof.Machine

namespace Sys2Proof.Proofs.Machine
open Sys2Proof.Machine

/-- Settles O46: a running step by its effect, a step between runs by the command it takes. -/
theorem stepKeepsTheInvariant : Obligations.StepKeepsTheInvariant := by
  unfold Obligations.StepKeepsTheInvariant
  intro s t h hstep
  by_cases hrun : s.status = .running
  · exact h.of_running_step hrun hstep
  · rw [step_idle hrun] at hstep
    cases hstep
    obtain ⟨hcfg, -⟩ := id h
    rcases idleStep_cases hrun with hidle | hidle | ⟨b, hidle⟩ | ⟨b, hst, hext, hcap, hidle⟩ <;> rw [hidle]
    · exact h
    · exact h.dropCommand
    · exact startState_inv hcfg b
    · exact resumeState_inv h.dropCommand hst hext hcap

/-- Settles O48: a running step settles, and a step between runs does not fault. -/
theorem outOfBoundsFaultsAreUnreachable : Obligations.OutOfBoundsFaultsAreUnreachable := by
  unfold Obligations.OutOfBoundsFaultsAreUnreachable SafeStep
  intro s h f hstep
  by_cases hrun : s.status = .running
  · have hsettles := step_settles (h.runs (.inl hrun)) hrun
    rw [hstep] at hsettles
    cases hsettles with
    | fault hf => exact hf
  · rw [step_idle hrun] at hstep
    cases hstep

/-- Settles O52: of the effects of a step only the stop itself leaves SRC_EMPTY. -/
theorem srcEmptyCommitsNothing : Obligations.SrcEmptyCommitsNothing := by
  unfold Obligations.SrcEmptyCommitsNothing
  intro s t h hrun hstep hst
  cases effect_of_step h hrun hstep with
  | srcEmpty v => rfl
  | lzvnGoesOn _ _ out | lzvnEnd _ _ out => exact nomatch (out.kept.2.2.trans hrun).symm.trans hst
  | eos | raised | headerRaised | lzvnRaised | lValRaised | setupRaised | rawFull | lzvnFull | cut => exact nomatch hst
  | _ => exact nomatch hrun.symm.trans hst

end Sys2Proof.Proofs.Machine

namespace Sys2Proof.Machine

/-! ## The register ranges -/

/-- The ranges of the registers, one by one. -/
structure Ranges (s : State) : Prop where
  cfg : s.cfg.Wf
  rawRem : s.rawRem < 2 ^ 32
  vnRawRem : s.vnRawRem < 2 ^ 32
  vnPayRem : s.vnPayRem < 2 ^ 32
  vnD : s.vnD ≤ 65535
  vnL : s.vnL ≤ 271
  vnM : s.vnM ≤ 271
  nRem : s.nRem ≤ maxMatches
  litPos : s.litPos ≤ litBufSize
  lmdPay : s.lmdPay < 2 ^ 32
  lSt : s.lSt < s.cfg.nL
  mSt : s.mSt < s.cfg.nM
  dSt : s.dSt < s.cfg.nD
  L : s.L < s.cfg.lTop
  M : s.M < s.cfg.mTop
  lv : s.lv < s.cfg.lTop
  mv : s.mv < s.cfg.mTop
  D : ∀ d, s.D = some d → 1 ≤ d ∧ d < s.cfg.dTop
  tLit : SymTableInRange s.cfg.nLit s.tLit
  tL : ValTableInRange s.cfg.nL s.cfg.lTop s.tL
  tM : ValTableInRange s.cfg.nM s.cfg.mTop s.tM
  tD : ValTableInRange s.cfg.nD s.cfg.dTop s.tD
  header : HeaderInRange s

theorem InRange.ranges {s : State} (h : InRange s) : Ranges s := by
  obtain ⟨h1, h2, h3, h4, h5, h6, h7, h8, h9, h10, h11, h12, h13, h14, h15, h16, h17, h18, h19, h20, h21, h22, h23⟩ := h
  exact ⟨h1, h2, h3, h4, h5, h6, h7, h8, h9, h10, h11, h12, h13, h14, h15, h16, h17, h18, h19, h20, h21, h22, h23⟩

theorem Ranges.inRange {s : State} (h : Ranges s) : InRange s :=
  ⟨h.cfg, h.rawRem, h.vnRawRem, h.vnPayRem, h.vnD, h.vnL, h.vnM, h.nRem, h.litPos, h.lmdPay, h.lSt, h.mSt, h.dSt, h.L, h.M, h.lv,
    h.mv, h.D, h.tLit, h.tL, h.tM, h.tD, h.header⟩

/-- Outside a setup the header has no range. -/
theorem headerInRange_of_phase {s : State} (h : s.phase ≠ .freqs ∧ s.phase ≠ .setup ∧ s.phase ≠ .lits) : HeaderInRange s := by
  obtain ⟨h1, h2, h3⟩ := h
  exact ⟨by simp [h1, h2, h3], fun hp => (h2 hp).elim, fun hp => (h3 hp).elim⟩

/-- The tables of a setup whose header passed the check lie in their ranges. -/
theorem Ranges.withTables {s : State} (h : Ranges s) (hpasses : HeaderPasses s) (hlits : s.hdr.litFreq.length ≤ symLit) :
    Ranges (withTables s) := by
  obtain ⟨hl, hl', hm, hm', hd, hd', -⟩ := h.cfg
  exact { h with
    tLit := buildSym_inRange (by omega) hpasses.litSum hlits
    tL := buildVal_inRange (by omega) hpasses.lSum (hl.trans hl'.symm)
    tM := buildVal_inRange (by omega) hpasses.mSum (hm.trans hm'.symm)
    tD := buildVal_inRange (by omega) hpasses.dSum (hd.trans hd'.symm) }

section EffectRanges
variable {s t : State} (h : Ranges s)
include h

theorem VnOut.ranges {r : VnStop} (out : VnOut s r t) (hready : s.phase = .ready) : Ranges t := by
  have sub_lt {n k : Nat} (hn : n < 2 ^ 32) : n - k < 2 ^ 32 := (Nat.sub_le ..).trans_lt hn
  have moved {ns nd d l m k : Nat} {mem : Memory} (hops : VnOperands s d l m) : Ranges (vnMoved s ns nd d l m mem k) := by
    obtain ⟨hd, hl, hm⟩ := hops
    rw [max_eq_left h.vnD] at hd
    rw [max_eq_left h.vnL] at hl
    rw [max_eq_left h.vnM] at hm
    exact { h with
      vnRawRem := sub_lt h.vnRawRem, vnPayRem := sub_lt h.vnPayRem, vnD := hd, vnL := hl, vnM := hm,
      header := headerInRange_of_phase (by simp [vnMoved, hready]) }
  cases out with
  | src | invalidOp => exact h
  | cont src moves operands distance => exact moved operands
  | invalidD src operands => exact moved operands
  | dst src operands distance some => exact moved operands
  | eos src moves =>
    exact { h with
      vnRawRem := sub_lt h.vnRawRem, vnPayRem := sub_lt h.vnPayRem, header := headerInRange_of_phase (by simp [vnTake, hready]) }

/-- Every effect leaves the registers in their ranges. -/
theorem Effect.ranges (hs : Runs s) (e : Effect s t) : Ranges t := by
  obtain ⟨hlmd, hlits, hstates⟩ := h.header
  cases e with
  | srcEmpty v => exact { h with header := headerInRange_of_phase (by simp) }
  | raised c v f fs r r' => exact { h with }
  | eos ready src => exact { h with header := headerInRange_of_phase (by simp) }
  | rawStart ready blk src n_lt => exact { h with rawRem := n_lt }
  | lzvnStart ready blk src n_lt p_lt =>
    exact { h with vnRawRem := n_lt, vnPayRem := p_lt, vnD := Nat.zero_le _, vnL := Nat.zero_le _, vnM := Nat.zero_le _ }
  | setupStart ready blk len lmd lits => exact { h with header := ⟨fun _ => lmd, fun _ => lits, nofun⟩ }
  | freqsStart ready blk len lmd qend => exact { h with header := ⟨fun _ => lmd, nofun, nofun⟩ }
  | headerRaised c ready => exact { h with header := headerInRange_of_phase (by simp [ready]) }
  | rawEnd ready blk => exact { h with }
  | rawFull ready blk => exact { h with header := headerInRange_of_phase (by simp) }
  | rawCopied ready blk pos src => exact { h with rawRem := (Nat.sub_le ..).trans_lt h.rawRem }
  | lzvnGoesOn ready blk out => exact out.ranges h ready
  | lzvnFull ready blk out => exact { out.ranges h ready with header := headerInRange_of_phase (by simp) }
  | lzvnRaised c ready out => exact { out.ranges h ready with }
  | lzvnEnd ready blk out => exact { out.ranges h ready with }
  | blockEnd ready blk there => exact { h with }
  | lVal ready blk there more reader fits range =>
    obtain ⟨hv, hst⟩ := range h.tL
    exact { h with lv := hv, lSt := hst, header := headerInRange_of_phase (by simp) }
  | lValRaised c ready range =>
    obtain ⟨hv, hst⟩ := range h.tL
    exact { h with lv := hv, lSt := hst }
  | mVal phase reader range =>
    obtain ⟨hv, hst⟩ := range h.tM
    exact { h with mv := hv, mSt := hst, header := headerInRange_of_phase (by simp) }
  | @dVal r v st phase reader range =>
    obtain ⟨hv, hst⟩ := range h.tD
    have hD : ∀ d, (if v = 0 then s.D else some v) = some d → 1 ≤ d ∧ d < s.cfg.dTop := by
      intro d hd
      split at hd
      · exact h.D d hd
      · cases hd
        exact ⟨by omega, hv⟩
    exact { h with
      dSt := hst, D := hD, L := h.lv, M := h.mv, nRem := (Nat.sub_le ..).trans h.nRem,
      header := headerInRange_of_phase (by simp) }
  | copied blk at_ =>
    exact { h with
      litPos := hs.litEnd, L := (Nat.zero_le _).trans_lt h.L, M := (Nat.zero_le _).trans_lt h.M,
      header := headerInRange_of_phase (by simp) }
  | cut blk at_ l_le =>
    exact { h with
      litPos := (Nat.add_le_add_left l_le _).trans hs.litEnd, L := (Nat.sub_le ..).trans_lt h.L,
      M := (Nat.sub_le ..).trans_lt h.M, header := headerInRange_of_phase (by simp) }
  | freqCount phase len more qend => exact { h with }
  | freqsDone phase =>
    exact { h with header := ⟨fun _ => hlmd (.inl phase), fun _ => List.length_take_le .., nofun⟩ }
  | setupRaised c phase passes =>
    exact { h.withTables passes (hlits phase) with }
  | setupDone phase passes body reader =>
    exact { h.withTables passes (hlits phase) with
      header := ⟨fun _ => hlmd (.inr (.inl phase)), nofun, fun _ => ⟨passes.nMatches, passes.lState, passes.mState, passes.dState⟩⟩ }
  | litSym phase more reader bits => exact { h with }
  | lmdInit phase reader blk =>
    obtain ⟨hn, hl, hm, hd⟩ := hstates phase
    exact { h with
      lSt := hl, mSt := hm, dSt := hd, nRem := hn, litPos := Nat.zero_le _, lmdPay := hlmd (.inr (.inr phase)),
      L := (Nat.zero_le _).trans_lt h.L, M := (Nat.zero_le _).trans_lt h.M, D := nofun,
      header := headerInRange_of_phase (by simp) }

end EffectRanges

/-- The reset of a core leaves every register in its range. -/
theorem initial_ranges {cfg : Config} (hcfg : cfg.Wf) (bs : List Byte) (cap k : Nat) :
    Ranges { State.initial cfg with src := memLoad .src [] 0 bs, srcLen := bs.length, dstCap := cap, draws := k } := by
  have sym (n : Nat) : SymTableInRange n (List.replicate n .unassigned) := by
    refine ⟨List.length_replicate, fun e he => ?_⟩
    rw [List.eq_of_mem_replicate he]
    exact ⟨by decide, nofun⟩
  have val (n top : Nat) : ValTableInRange n top (List.replicate n .unassigned) := by
    refine ⟨List.length_replicate, fun e he => ?_⟩
    rw [List.eq_of_mem_replicate he]
    exact ⟨le_rfl, nofun⟩
  have zero_lt : 0 < 2 ^ 32 := by decide
  have top (extra base : List Nat) : 0 < valueTop extra base := valueTop_pos extra base
  exact
    { cfg := hcfg, rawRem := zero_lt, vnRawRem := zero_lt, vnPayRem := zero_lt, vnD := Nat.zero_le _, vnL := Nat.zero_le _,
      vnM := Nat.zero_le _, nRem := Nat.zero_le _, litPos := Nat.zero_le _, lmdPay := zero_lt, lSt := Nat.two_pow_pos _,
      mSt := Nat.two_pow_pos _, dSt := Nat.two_pow_pos _, L := top _ _, M := top _ _, lv := top _ _, mv := top _ _, D := nofun,
      tLit := sym _, tL := val _ _, tM := val _ _, tD := val _ _, header := headerInRange_of_phase (by simp [State.initial]) }

theorem startState_ranges {s : State} (hcfg : s.cfg.Wf) (b : Buffers) : Ranges (startState b s) :=
  initial_ranges hcfg b.src b.dstCap (s.draws + 1)

end Sys2Proof.Machine

namespace Sys2Proof.Proofs.Machine
open Sys2Proof.Machine

/-- Settles O47: the effects of a running step, and between runs the reset values or the registers as they stood. -/
theorem stepKeepsTheRegisterRanges : Obligations.StepKeepsTheRegisterRanges := by
  unfold Obligations.StepKeepsTheRegisterRanges
  intro s t h hranges hstep
  by_cases hrun : s.status = .running
  · exact ((effect_of_step h hrun hstep).ranges hranges.ranges (h.runs (.inl hrun))).inRange
  · rw [step_idle hrun] at hstep
    cases hstep
    rcases idleStep_cases hrun with hidle | hidle | ⟨b, hidle⟩ | ⟨b, -, -, -, hidle⟩ <;> rw [hidle]
    · exact hranges
    · exact hranges
    · exact (startState_ranges hranges.ranges.cfg b).inRange
    · exact hranges

/-- Settles O45: the reset of a core whose parameters fit, over an empty SRC. -/
theorem resetMeetsTheInvariant : Obligations.ResetMeetsTheInvariant := by
  unfold Obligations.ResetMeetsTheInvariant
  exact ⟨initial_inv default_Wf [] 0 0, (initial_ranges default_Wf [] 0 0).inRange, default_lTop, default_mTop, default_dTop⟩

end Sys2Proof.Proofs.Machine

/-! PROOFS. Every run ends: each step that the run goes on after takes from a bound on the steps that are left, which START leaves
below the model's bound. -/

namespace Sys2Proof.Machine

/-! ## The steps that are left -/

/-- What a block may still take at a step boundary, and the next block after it: its end, and four steps for each triplet. -/
def blockWork (s : State) : Nat :=
  match s.blk with
  | .none | .lzvn => 40363
  | .raw => 40364
  | .v1 | .v2 => 4 * s.nRem + 40364

/-- The same inside a block's setup or triplet. A setup is paid for by the next block start: it takes 360 frequency codes and
40000 literals at most. -/
def phaseWork (s : State) : Nat :=
  match s.phase with
  | .ready => blockWork s
  | .freqs => 40002 + (360 - s.freqs.length)
  | .setup => 40001
  | .lits => litGoal s - s.litIdx
  | .mVal => 4 * s.nRem + 40363
  | .dVal => 4 * s.nRem + 40362
  | .copy => 4 * s.nRem + 40365

/-- A bound on the steps that are left: what every 8 bytes of SRC can bring, a step for each byte of SRC and of DST, and the block
at hand. -/
def work (s : State) : Nat := 80400 * (srcAvail s / 8) + srcAvail s + (s.dstCap - s.dstPos) + phaseWork s

/-- What a run from START keeps beside the invariant: the header of a block in setup is at least as long as a V2 fixed part, so
that its end moves `src_pos` by that much, and a triplet that is being decoded is one of those to decode. -/
structure PhaseInv (s : State) : Prop where
  header : s.phase = .freqs ∨ s.phase = .setup ∨ s.phase = .lits → 32 ≤ s.hdr.hdrLen
  triplet : s.phase = .mVal ∨ s.phase = .dVal → s.nRem ≠ 0

section Work
variable {s t : State}

theorem phaseInv_of_ready (h : s.phase = .ready) : PhaseInv s := ⟨by simp [h], by simp [h]⟩

/-- An LZVN step leaves the phase. -/
theorem VnOut.phase {r : VnStop} (out : VnOut s r t) : t.phase = s.phase := by cases out <;> rfl

theorem Effect.phaseInv (e : Effect s t) (h : PhaseInv s) : PhaseInv t := by
  cases e with
  | srcEmpty | eos | rawFull | lzvnFull | cut | copied | lmdInit => exact phaseInv_of_ready rfl
  | rawStart ready | lzvnStart ready | headerRaised _ ready | rawEnd ready | rawCopied ready | blockEnd ready =>
    exact phaseInv_of_ready ready
  | lzvnGoesOn ready _ out | lzvnRaised _ ready out | lzvnEnd ready _ out => exact phaseInv_of_ready (out.phase.trans ready)
  | setupStart ready blk len lmd lits => exact ⟨fun _ => len, by simp⟩
  | freqsStart ready blk len lmd qend => exact ⟨fun _ => len, by simp⟩
  | freqsDone phase => exact ⟨fun _ => h.header (.inl phase), by simp⟩
  | setupDone phase passes body reader => exact ⟨fun _ => h.header (.inr (.inl phase)), by simp⟩
  | lVal ready blk there more reader fits range => exact ⟨by simp, fun _ => more⟩
  | mVal phase reader range => exact ⟨by simp, fun _ => h.triplet (.inl phase)⟩
  | dVal => exact ⟨by simp, by simp⟩
  | raised | lValRaised | freqCount | setupRaised | litSym => exact ⟨h.header, h.triplet⟩

/-- A step that the run goes on after leaves less to do. -/
theorem Effect.work_lt (e : Effect s t) (h : Runs s) (hranges : Ranges s) (hphase : PhaseInv s) (hgo : t.status = .running)
    (hdst : t.dstPos ≤ t.dstCap) : work t < work s := by
  have hsrc := e.srcPos h
  cases e with
  | srcEmpty | eos | rawFull | lzvnFull | cut | raised | headerRaised | lzvnRaised | lValRaised | setupRaised =>
    exact nomatch hgo
  | rawStart ready blk src n_lt =>
    simp only [work, phaseWork, blockWork, srcAvail, ready, blk] at *
    omega
  | lzvnStart ready blk src n_lt p_lt =>
    simp only [work, phaseWork, blockWork, srcAvail, ready, blk] at *
    omega
  | setupStart ready blk len lmd lits =>
    simp only [work, phaseWork, blockWork, srcAvail, ready, blk] at *
    omega
  | freqsStart ready blk len lmd qend =>
    simp only [work, phaseWork, blockWork, srcAvail, ready, blk, List.length_nil] at *
    omega
  | rawEnd ready blk =>
    simp only [work, phaseWork, blockWork, srcAvail, ready, blk] at *
    omega
  | rawCopied ready blk pos src =>
    simp only [work, phaseWork, blockWork, srcAvail, ready, blk] at *
    omega
  | lzvnGoesOn ready blk out =>
    cases out with
    | cont src moves operands distance =>
      simp only [work, phaseWork, blockWork, vnMoved, srcAvail, ready, blk] at *
      omega
  | lzvnEnd ready blk out =>
    cases out with
    | eos src moves =>
      simp only [work, phaseWork, blockWork, vnTake, srcAvail, ready, blk] at *
      omega
  | blockEnd ready blk there =>
    rcases blk with blk | blk <;>
      · simp only [work, phaseWork, blockWork, endBlock, srcAvail, ready, blk] at *
        omega
  | lVal ready blk there more reader fits range =>
    rcases blk with blk | blk <;>
      · simp only [work, phaseWork, blockWork, srcAvail, ready, blk] at *
        omega
  | mVal phase reader range =>
    simp only [work, phaseWork, srcAvail, phase] at *
    omega
  | dVal phase reader range =>
    have hmore := hphase.triplet (.inr phase)
    simp only [work, phaseWork, srcAvail, phase] at *
    omega
  | copied blk at_ =>
    obtain ⟨-, phase | ⟨phase, -, -, pending⟩⟩ := at_ <;> rcases blk with blk | blk <;>
      · simp only [work, phaseWork, blockWork, srcAvail, phase, blk] at *
        omega
  | freqCount phase len more qend =>
    simp only [work, phaseWork, srcAvail, phase, nFreqs] at *
    omega
  | freqsDone phase =>
    simp only [work, phaseWork, srcAvail, phase] at *
    omega
  | setupDone phase passes body reader =>
    have hn := passes.nLiterals
    simp only [work, phaseWork, srcAvail, phase, litGoal, withTables, maxLiterals] at *
    omega
  | litSym phase more reader bits =>
    simp only [work, phaseWork, srcAvail, phase, litGoal] at *
    omega
  | lmdInit phase reader blk =>
    obtain ⟨-, -, hstates⟩ := hranges.header
    obtain ⟨hn, -⟩ := hstates phase
    have hlen := hphase.header (.inr (.inr phase))
    rcases blk with rfl | rfl <;>
      · simp only [work, phaseWork, blockWork, srcAvail, phase, bodyPos, maxMatches] at *
        omega

end Work

/-! ## The run -/

/-- What a run from START keeps. -/
structure RunInv (s : State) : Prop where
  inv : Inv s
  ranges : Ranges s
  phase : PhaseInv s

/-- The statuses that end a run without a fault (45_dispatcher.md R399). -/
def Final (st : Status) : Prop := st = .ok ∨ st = .srcEmpty ∨ st = .dstFull ∨ st = .malformed

/-- A step of a run keeps all of this, and it ends the run or leaves less to do. -/
theorem RunInv.step {s t : State} (h : RunInv s) (hrun : s.status = .running) (hstep : step s = .next t) :
    RunInv t ∧ ((t.status = .running ∧ work t < work s) ∨ Final t.status) := by
  have hs := h.inv.runs (.inl hrun)
  have he := effect_of_step h.inv hrun hstep
  refine ⟨⟨h.inv.of_running_step hrun hstep, he.ranges h.ranges hs, he.phaseInv h.phase⟩, ?_⟩
  rcases he.status hrun hs.cause with hgo | ⟨hst | hst, -⟩ | ⟨hst, -⟩ | ⟨hst, -⟩
  · exact .inl ⟨hgo, he.work_lt hs h.ranges h.phase hgo (mem_of_step h.inv hrun hstep).2⟩
  · exact .inr (.inr (.inl hst))
  · exact .inr (.inr (.inr (.inl hst)))
  · exact .inr (.inl hst)
  · exact .inr (.inr (.inr (.inr hst)))

theorem runLoop_stopped {s : State} (h : s.status ≠ .running) (n : Nat) : runLoop n s = .next s := by
  cases n with
  | zero => rfl
  | succ n => exact if_neg h

/-- `n` steps are enough for the run from `s`: it ends with a final status or a fault, and more steps give the same end. -/
structure RunEnds (n : Nat) (s : State) : Prop where
  more : ∀ k, runLoop (n + k) s = runLoop n s
  status : ∀ t, runLoop n s = .next t → Final t.status
  notRefused : ∀ r, runLoop n s ≠ .refused r

theorem runEnds_of_final {s : State} (h : Final s.status) (n : Nat) : RunEnds n s := by
  have hstop : s.status ≠ .running := by rcases h with h | h | h | h <;> simp [h]
  refine ⟨fun k => by rw [runLoop_stopped hstop, runLoop_stopped hstop], fun t ht => ?_, fun r hr => ?_⟩
  · rw [runLoop_stopped hstop] at ht
    cases ht
    exact h
  · rw [runLoop_stopped hstop] at hr
    cases hr

theorem RunEnds.of_congr {n n' : Nat} {s s' : State} (h : RunEnds n s) (hrun : ∀ k, runLoop (n' + k) s' = runLoop (n + k) s) :
    RunEnds n' s' where
  more k := (hrun k).trans ((h.more k).trans (hrun 0).symm)
  status t ht := h.status t ((hrun 0).symm.trans ht)
  notRefused r hr := h.notRefused r ((hrun 0).symm.trans hr)

theorem runEnds_of_fault {n : Nat} {s : State} {f : Fault} (h : ∀ k, runLoop (n + k) s = .fault f) : RunEnds n s where
  more k := (h k).trans (h 0).symm
  status _ ht := nomatch (h 0).symm.trans ht
  notRefused _ hr := nomatch (h 0).symm.trans hr

theorem runEnds_of_work_lt {n : Nat} {s : State} (h : RunInv s) (hrun : s.status = .running) (hwork : work s < n) :
    RunEnds n s := by
  induction n generalizing s with
  | zero => exact absurd hwork (Nat.not_lt_zero _)
  | succ n ih =>
    have hloop (k : Nat) : runLoop (n + 1 + k) s =
        match step s with
        | .next s' => runLoop (n + k) s'
        | .fault f => .fault f
        | .refused r => .refused r := by
      rw [Nat.add_right_comm]
      exact if_pos hrun
    have hsettles := step_settles (h.inv.runs (.inl hrun)) hrun
    cases hstep : Machine.step s with
    | next t =>
      have hnext (k : Nat) : runLoop (n + 1 + k) s = runLoop (n + k) t := by rw [hloop, hstep]
      obtain ⟨ht, ⟨hgo, hless⟩ | hfinal⟩ := h.step hrun hstep
      · exact (ih ht hgo (by omega)).of_congr hnext
      · exact (runEnds_of_final hfinal n).of_congr hnext
    | fault f => exact runEnds_of_fault fun k => by rw [hloop, hstep]
    | refused r =>
      rw [hstep] at hsettles
      cases hsettles

theorem startState_runInv {s : State} (hcfg : s.cfg.Wf) (b : Buffers) : RunInv (startState b s) :=
  ⟨startState_inv hcfg b, startState_ranges hcfg b, phaseInv_of_ready rfl⟩

theorem work_startState_lt (b : Buffers) (s : State) : work (startState b s) < fuelBound b.src.length b.dstCap := by
  have hwork : work (startState b s) = 80400 * (b.src.length / 8) + b.src.length + b.dstCap + 40363 := rfl
  rw [hwork, fuelBound]
  omega

end Sys2Proof.Machine

namespace Sys2Proof.Proofs.Machine
open Sys2Proof.Machine

/-- Settles O56: the work that START leaves is below the bound, and every step takes from it or ends the run. -/
theorem everyRunEnds : Obligations.EveryRunEnds := by
  unfold Obligations.EveryRunEnds
  intro b s k hcfg
  have hends := runEnds_of_work_lt (startState_runInv hcfg b) rfl (work_startState_lt b s)
  exact ⟨hends.more k, hends.status, hends.notRefused⟩

end Sys2Proof.Proofs.Machine

/-! PROOFS. The unspecified bytes of DST do not matter: two states that differ only in the draw are stepped alike, because a step
reads DST only where this run has written it. -/

namespace Sys2Proof.Machine

/-! ## Results that differ only in the draw -/

section Same
variable {α β : Type}

/-- Two results with the same answer whose states differ at most in the draw. -/
inductive Res.Same : Res α → Res α → Prop
  | ok (a : α) (s : State) (k : Nat) : Same (.ok a s) (.ok a { s with draws := k })
  | ended (s : State) (k : Nat) : Same (.ended s) (.ended { s with draws := k })
  | fault (f : Fault) : Same (.fault f) (.fault f)

/-- The operation answers the same from every draw. -/
abbrev Blind (op : State → Res α) (s : State) : Prop := ∀ k, (op s).Same (op { s with draws := k })

theorem Res.Same.bind {r r' : Res α} {f f' : α → State → Res β} (h : r.Same r')
    (hf : ∀ a s k, (f a s).Same (f' a { s with draws := k })) : (r.bind f).Same (r'.bind f') := by
  cases h with
  | ok a s k => exact hf a s k
  | ended s k => exact .ended s k
  | fault f => exact .fault f

/-- What the first operation yields can be used for the second. -/
theorem Res.Same.bindOf {P : α → State → Prop} {E : State → Prop} {r r' : Res α} {f f' : α → State → Res β} (h : r.Same r')
    (hr : r.Yields P E) (hf : ∀ a s k, P a s → (f a s).Same (f' a { s with draws := k })) : (r.bind f).Same (r'.bind f') := by
  cases h with
  | ok a s k =>
    cases hr with
    | ok hP => exact hf a s k hP
  | ended s k => exact .ended s k
  | fault f => exact .fault f

theorem Res.Same.ite {c : Prop} [Decidable c] {r1 r2 r1' r2' : Res α} (hpos : c → r1.Same r1') (hneg : ¬ c → r2.Same r2') :
    (if c then r1 else r2).Same (if c then r1' else r2') := by
  split
  · next h => exact hpos h
  · next h => exact hneg h

theorem Res.Same.alike {r r' : Res Unit} (h : r.Same r') : Alike r.out r'.out := by
  cases h <;> exact rfl

end Same

/-! ## The operations -/

section Operations
variable (s : State)

theorem setReader_redraw (w : ReaderId) (r : BitReader) (k : Nat) :
    setReader w r { s with draws := k } = { setReader w r s with draws := k } := by
  cases w <;> rfl

theorem reader_redraw (w : ReaderId) (k : Nat) : reader w { s with draws := k } = reader w s := by
  cases w <;> rfl

theorem srcRead_redraw (p n k : Nat) : srcRead { s with draws := k } p n = srcRead s p n :=
  srcRead_congr (s := s) (t := { s with draws := k }) rfl rfl p n

theorem setReader_same (w : ReaderId) (r : BitReader) (k : Nat) :
    (Res.ok () (setReader w r s)).Same (.ok () (setReader w r { s with draws := k })) := by
  rw [setReader_redraw s w r k]
  exact .ok () _ k

theorem readerInit_blind (w : ReaderId) (n : Int) (e lo : Nat) : Blind (readerInit w n e lo) s := by
  intro k
  rcases readerInit_outcome w n e lo s with ⟨r, -, -, h⟩ | ⟨r, h⟩ | ⟨-, h⟩
  · rw [h s rfl rfl rfl, h { s with draws := k } rfl rfl (reader_redraw s w k)]
    exact setReader_same s w r k
  · rw [h s rfl rfl rfl, h { s with draws := k } rfl rfl (reader_redraw s w k), setReader_redraw s w r k]
    exact .ended (raiseMalformed _ (setReader w r s)) k
  · rw [h s rfl rfl, h { s with draws := k } rfl rfl]
    exact .fault _

theorem flush_blind (w : ReaderId) : Blind (flush w) s := by
  intro k
  simp only [flush, reader_redraw, srcRead_redraw]
  refine .ite (fun _ => .ended _ k) fun _ => ?_
  split
  · exact .fault _
  · exact setReader_same s w _ k

theorem pull_blind (w : ReaderId) (n : Nat) : Blind (pull w n) s := by
  intro k
  simp only [pull, reader_redraw, setReader_redraw]
  exact .ite (fun _ => .fault _) fun _ => .ok _ _ k

theorem decodeSym_blind (st : Nat) : Blind (decodeSym st) s := by
  intro k
  unfold decodeSym
  exact .ite (fun _ => .fault _) fun _ => (pull_blind s _ _ k).bind fun _ s1 k1 => .ok _ s1 k1

theorem decodeVal_blind (t : List ValEntry) (st : Nat) : Blind (decodeVal t st) s := by
  intro k
  unfold decodeVal
  exact .ite (fun _ => .fault _) fun _ => (pull_blind s _ _ k).bind fun _ s1 k1 => .ok _ s1 k1

theorem litWrite_blind (i : Nat) (v : Byte) : Blind (litWrite i v) s := by
  intro k
  unfold litWrite
  exact .ite (fun _ => .ok _ _ k) fun _ => .fault _

theorem litSymbol_blind : Blind litSymbol s := by
  intro k
  unfold litSymbol
  have hflush : (if s.litIdx % 4 = 0 then flush .litrd s else .ok () s).Same
      (if s.litIdx % 4 = 0 then flush .litrd { s with draws := k } else .ok () { s with draws := k }) :=
    .ite (fun _ => flush_blind s .litrd k) fun _ => .ok _ s k
  exact hflush.bind fun _ s1 k1 => (decodeSym_blind s1 _ k1).bind fun _ s2 k2 => (litWrite_blind s2 _ _ k2).bind fun _ s3 k3 =>
    .ok _ _ k3

theorem literalLength_blind : Blind literalLength s := by
  intro k
  unfold literalLength
  exact (flush_blind s .lmd k).bind fun _ s1 k1 => (decodeVal_blind s1 _ _ k1).bind fun _ s2 k2 =>
    .ite (fun _ => .ended _ k2) fun _ => .ok _ _ k2

theorem matchLength_blind : Blind matchLength s := by
  intro k
  unfold matchLength
  exact (flush_blind s .lmd k).bind fun _ s1 k1 => (decodeVal_blind s1 _ _ k1).bind fun _ s2 k2 => .ok _ _ k2

theorem matchDistance_blind : Blind matchDistance s := by
  intro k
  unfold matchDistance
  exact (flush_blind s .lmd k).bind fun _ s1 k1 => (decodeVal_blind s1 _ _ k1).bind fun _ s2 k2 => .ok _ _ k2

theorem freqWindow_redraw (k : Nat) : freqWindow { s with draws := k } = freqWindow s := by
  have hrefill (fuel : Nat) (r : FreqReader) : freqRefill { s with draws := k } fuel r = freqRefill s fuel r := by
    induction fuel generalizing r with
    | zero => rfl
    | succ fuel ih => simp only [freqRefill, ih, srcByte]
  exact hrefill 4 s.freq

theorem freqsDone_blind : Blind freqsDone s := by
  intro k
  unfold freqsDone
  exact .ite (fun _ => .ended (raiseMalformed _ s) k) fun _ => .ok _ _ k

theorem freqCount_blind (n v : Nat) : Blind (freqCount n v) s := by
  intro k
  unfold freqCount
  rw [freqWindow_redraw s k]
  cases freqWindow s with
  | none => exact .fault _
  | some r =>
    exact .ite (fun _ => .ended (raiseMalformed _ { s with freq := r }) k) fun _ => .ite (fun _ => .ok _ _ k) fun _ => freqsDone_blind _ k

theorem afterBuild_blind (overflow : Bool) : Blind (afterBuild overflow) s := by
  intro k
  unfold afterBuild
  exact .ite (fun _ => .ended (raiseMalformed _ s) k) fun _ => .ok _ _ k

theorem buildTables_blind : Blind buildTables s := by
  intro k
  unfold buildTables
  exact (afterBuild_blind _ _ k).bind fun _ s1 k1 => (afterBuild_blind _ _ k1).bind fun _ s2 k2 =>
    (afterBuild_blind _ _ k2).bind fun _ s3 k3 => afterBuild_blind _ _ k3

theorem validate_blind : Blind validate s := by
  intro k
  have hcheck : hdrCheck { s with draws := k } = hdrCheck s := rfl
  unfold validate
  rw [hcheck]
  exact .ite (fun _ => .ended (raiseMalformed _ { s with hdrFail := hdrCheck s }) k) fun _ => .ok _ { s with hdrFail := hdrCheck s } k

theorem setupStep_blind : Blind setupStep s := by
  intro k
  have hbody (s : State) (k : Nat) : (bodyCheck s).Same (bodyCheck { s with draws := k }) := by
    unfold bodyCheck
    exact .ite (fun _ => .ended (stopRun _ s) k) fun _ => .ok _ s k
  have hlit (s : State) (k : Nat) : (litInit s).Same (litInit { s with draws := k }) := by
    unfold litInit
    exact (readerInit_blind { s with lit := [] } _ _ _ _ k).bind fun _ s1 k1 => .ok _ _ k1
  unfold setupStep
  exact (validate_blind s k).bind fun _ s1 k1 => (hbody s1 k1).bind fun _ s2 k2 => (buildTables_blind s2 k2).bind fun _ s3 k3 =>
    hlit s3 k3

theorem lmdInit_blind : Blind lmdInit s := by
  intro k
  unfold lmdInit
  exact (readerInit_blind s _ _ _ _ k).bind fun _ s1 k1 => .ok _ _ k1

end Operations

/-! ## The copies -/

section Copies
variable (s : State)

theorem dstWrite_blind (p : Nat) (v : Byte) : Blind (dstWrite p v) s := by
  intro k
  unfold dstWrite
  exact .ite (fun _ => .ok _ _ k) fun _ => .fault _

theorem copyFromSrc_blind (n sp dp : Nat) : Blind (copyFromSrc n sp dp) s := by
  intro k
  induction n generalizing sp dp s k with
  | zero => exact .ok _ s k
  | succ n ih =>
    unfold copyFromSrc
    rw [srcByte_congr (s := s) (t := { s with draws := k }) rfl rfl]
    cases srcByte s sp with
    | none => exact .fault _
    | some v => exact (dstWrite_blind s dp v k).bind fun _ s1 k1 => ih s1 _ _ k1

theorem copyFromLit_blind (n lp dp : Nat) : Blind (copyFromLit n lp dp) s := by
  have hread (i : Nat) (s : State) (k : Nat) : (litRead i s).Same (litRead i { s with draws := k }) := by
    unfold litRead
    refine .ite (fun _ => ?_) fun _ => .fault _
    dsimp only
    cases memRead .lit s.lit i with
    | none => exact .fault _
    | some v => exact .ok v s k
  intro k
  induction n generalizing lp dp s k with
  | zero => exact .ok _ s k
  | succ n ih =>
    unfold copyFromLit
    exact (hread lp s k).bind fun v s1 k1 => (dstWrite_blind s1 dp v k1).bind fun _ s2 k2 => ih s2 _ _ k2

/-- A match copy at a distance reads only bytes below the one it writes, and they are written. -/
theorem copyFromDst_blind {d : Nat} (hd : d ≠ 0) (n dp : Nat) (hw : ∀ q < dp, memRead .dst s.dst q ≠ none) :
    Blind (copyFromDst d n dp) s := by
  intro k
  induction n generalizing dp s k with
  | zero => exact .ok _ s k
  | succ n ih =>
    unfold copyFromDst
    refine .ite (fun _ => .fault _) fun hle => ?_
    obtain ⟨v, hv⟩ := Option.ne_none_iff_exists'.1 (hw (dp - d) (by omega))
    simp only [dstRead, hv, dstWrite]
    by_cases hcap : dp - d < s.dstCap
    · simp only [if_pos hcap]
      by_cases hroom : dp < s.dstCap
      · simp only [if_pos hroom, Res.bind_ok]
        refine ih { s with dst := memWrite .dst s.dst dp v } (dp + 1) (fun q hq => ?_) k
        by_cases hqd : q = dp
        · subst hqd
          simp [memRead_write_same]
        · rw [memRead_write_other _ _ _ hqd]
          exact hw q (by omega)
      · simp only [if_neg hroom, Res.bind_fault]
        exact .fault _
    · simp only [if_neg hcap]
      exact .fault _

/-- A copy and the moves after it; the slop draws anew. -/
theorem Res.Same.copied {r r' : Res Unit} {f : State → State} (h : r.Same r')
    (hf : ∀ s k, f { s with draws := k } = { f s with draws := k }) :
    (r.bind fun _ s1 => .ok () (slop (f s1))).Same (r'.bind fun _ s1 => .ok () (slop (f s1))) := by
  refine h.bind fun _ s1 k1 => ?_
  rw [hf s1 k1]
  exact .ok () (slop (f s1)) (k1 + 1)

theorem vnLiterals_blind (off n : Nat) : Blind (vnLiterals off n) s := by
  intro k
  unfold vnLiterals
  exact (copyFromSrc_blind s _ _ _ k).copied fun _ _ => rfl

theorem vnMatch_blind (h0 : s.vnD ≠ 0) (hm : MemInv s) (n : Nat) : Blind (vnMatch n) s := by
  obtain ⟨-, -, -, -, -, -, hfilled⟩ := hm
  intro k
  unfold vnMatch
  exact (copyFromDst_blind s h0 _ _ hfilled k).copied fun _ _ => rfl

theorem copyLit_blind (n : Nat) : Blind (copyLit n) s := by
  intro k
  unfold copyLit
  exact (copyFromLit_blind s _ _ _ k).copied fun _ _ => rfl

theorem copyMatch_blind {d : Nat} (h0 : d ≠ 0) (hm : MemInv s) (n : Nat) : Blind (copyMatch d n) s := by
  obtain ⟨-, -, -, -, -, -, hfilled⟩ := hm
  intro k
  unfold copyMatch
  exact (copyFromDst_blind s h0 _ _ hfilled k).copied fun _ _ => rfl

theorem stepRaw_blind : Blind stepRaw s := by
  intro k
  unfold stepRaw
  refine .ite (fun _ => .ok _ { s with blk := .none } k) fun _ => .ite (fun _ => .ended (stopRun _ s) k) fun _ =>
    .ite (fun _ => .ended (stopRun _ s) k) fun _ => ?_
  unfold rawCopy
  exact (copyFromSrc_blind s _ _ _ k).copied fun _ _ => rfl

theorem copyMatchOnly_blind (h0 : s.vnD ≠ 0) (hm : MemInv s) (m da : Nat) : Blind (copyMatchOnly m da) s := by
  intro k
  unfold copyMatchOnly
  exact .ite (fun _ => (vnMatch_blind s h0 hm _ k).bind fun _ s1 k1 => .ok _ s1 k1) fun _ =>
    (vnMatch_blind s h0 hm _ k).bind fun _ s1 k1 => .ok _ _ k1

theorem copyLiteral_blind (opcLen l sa da : Nat) : Blind (copyLiteral opcLen l sa da) s := by
  intro k
  unfold copyLiteral
  exact .ite (fun _ => .ok _ s k) fun _ => .ite (fun _ => (vnLiterals_blind s _ _ k).bind fun _ s1 k1 => .ok _ s1 k1) fun _ =>
    (vnLiterals_blind s _ _ k).bind fun _ s1 k1 => .ok _ _ k1

/-- After the literals the memories are sound still, and a match at no distance is not copied. -/
theorem copyLM_blind (hm : MemInv s) (opcLen l m da : Nat) : Blind (copyLM opcLen l m da) s := by
  intro k
  unfold copyLM
  refine .ite (fun _ => ?_) fun _ => (vnLiterals_blind s _ _ k).bind fun _ s1 k1 => .ok _ _ k1
  refine (vnLiterals_blind s _ _ k).bindOf (vnLiterals_frames (T := True) s _ _) fun _ s1 k1 hframe => ?_
  exact .ite (fun _ => .ok _ s1 k1) fun hgood => copyMatchOnly_blind s1 (fun h0 => hgood (.inr h0)) (hframe.mem hm) _ _ k1

theorem matchOpcode_blind (hm : MemInv s) (opcLen m : Nat) : Blind (matchOpcode opcLen m) s := by
  intro k
  unfold matchOpcode
  exact .ite (fun _ => .ok _ s k) fun _ => .ite (fun _ => .ok _ (vnTake opcLen 0 s) k) fun h0 =>
    copyMatchOnly_blind (vnTake opcLen 0 s) h0 hm _ _ k

theorem vnResume_blind (hm : MemInv s) (h0 : s.vnL = 0 ∧ s.vnM ≠ 0 → s.vnD ≠ 0) : Blind vnResume s := by
  intro k
  unfold vnResume
  exact .ite (fun _ => copyLiteral_blind { s with vnL := 0, vnM := 0 } _ _ _ _ k) fun hM =>
    .ite (fun hL => copyMatchOnly_blind { s with vnL := 0, vnM := 0 } (h0 ⟨hL, hM⟩) hm _ _ k) fun _ =>
      copyLM_blind { s with vnL := 0, vnM := 0 } hm _ _ _ _ k

theorem account_blind (r : VnStop) : Blind (account r) s := by
  intro k
  cases r with
  | cont => exact .ok _ s k
  | invalidOp | invalidD => exact .ended (raiseMalformed _ s) k
  | eos => exact .ite (fun _ => .ok _ { s with blk := .none } k) fun _ => .ended (raiseMalformed _ s) k
  | src => exact .ite (fun _ => .ended (stopRun _ s) k) fun _ => .ended (raiseMalformed _ s) k
  | dst => exact .ite (fun _ => .ended (raiseMalformed _ s) k) fun _ => .ended (stopRun _ s) k

theorem Res.Same.vnFinish {r r' : Res VnStop} (h : r.Same r') : (vnFinish r).Same (vnFinish r') :=
  h.bind fun r s1 k1 => account_blind s1 r k1

theorem fastCopy_blind {d : Nat} (h0 : d ≠ 0) (hm : MemInv s) : Blind (fastCopy d) s := by
  intro k
  unfold fastCopy
  exact (copyLit_blind s _ k).bindOf (copyLit_frames (T := True) s _) fun _ s1 k1 hframe =>
    (copyMatch_blind s1 h0 (hframe.mem hm) _ k1).bind fun _ s2 k2 => .ok _ _ k2

theorem slowMatch_blind {d : Nat} (h0 : d ≠ 0) (hm : MemInv s) (rem : Nat) : Blind (slowMatch d rem) s := by
  intro k
  unfold slowMatch
  exact .ite (fun _ => (copyMatch_blind s h0 hm _ k).bind fun _ s1 k1 => .ok _ _ k1) fun _ =>
    (copyMatch_blind s h0 hm _ k).bind fun _ s1 k1 => .ended (stopRun _ { s1 with M := s1.M - rem }) k1

theorem slowCopy_blind {d : Nat} (h0 : d ≠ 0) (hm : MemInv s) : Blind (slowCopy d) s := by
  intro k
  unfold slowCopy
  refine .ite (fun _ => ?_) fun _ =>
    (copyLit_blind s _ k).bind fun _ s1 k1 => .ended (stopRun _ { s1 with L := s1.L - (s.dstCap - s.dstPos) }) k1
  exact (copyLit_blind s _ k).bindOf (copyLit_frames (T := True) s _) fun _ s1 k1 hframe =>
    slowMatch_blind { s1 with L := 0 } h0 (hframe.mem hm) _ k1

theorem execute_blind (hD : s.D ≠ some 0) (hm : MemInv s) : Blind execute s := by
  intro k
  by_cases hbad : s.D = none ∨ ∃ d, s.D = some d ∧ s.dstPos + s.L < d
  · rw [execute_badDistance hbad, execute_badDistance (s := { s with draws := k }) hbad]
    exact .ended (raiseMalformed _ s) k
  · rw [not_or, not_exists] at hbad
    obtain ⟨d, hd⟩ := Option.ne_none_iff_exists'.1 hbad.1
    have hle : d ≤ s.dstPos + s.L := not_lt.1 fun hlt => hbad.2 d ⟨hd, hlt⟩
    have h0 : d ≠ 0 := fun h0 => hD (hd.trans (by rw [h0]))
    rw [execute_paths hd hle, execute_paths (s := { s with draws := k }) hd hle]
    exact .ite (fun _ => fastCopy_blind s h0 hm k) fun _ => slowCopy_blind s h0 hm k

end Copies

/-! ## The step -/

section Step
variable (s : State)

theorem fetch_redraw (k : Nat) : fetch { s with draws := k } = fetch s := by
  have hbytes (n p : Nat) : srcBytes { s with draws := k } n p = srcBytes s n p :=
    srcBytes_congr (s := s) (t := { s with draws := k }) rfl rfl n p
  have hblock : blockBytes { s with draws := k } = blockBytes s := hbytes _ _
  have hopcode : opcodeBytes { s with draws := k } = opcodeBytes s := hbytes _ _
  have htriplet : fetchTriplet { s with draws := k } = fetchTriplet s := rfl
  have hready : fetchReady { s with draws := k } = fetchReady s := by
    unfold fetchReady
    rw [hblock, hopcode, htriplet]
  have hgoal : litGoal { s with draws := k } = litGoal s := rfl
  unfold fetch
  rw [hready, freqWindow_redraw s k, hgoal]

theorem exec_alike (hm : MemInv s) (i : Instr) (k : Nat) : Alike (exec i s) (exec i { s with draws := k }) := by
  have alikeIte {c : Prop} [Decidable c] {o1 o2 o1' o2' : Host.Outcome State Fault Refusal} (h1 : Alike o1 o1')
      (h2 : Alike o2 o2') : Alike (if c then o1 else o2) (if c then o1' else o2') := by split <;> assumption
  have short {r r' : Res VnStop} {c : Prop} [Decidable c] (h : r.Same r') :
      Alike (vnFinish (if c then .ok .src s else r)).out (vnFinish (if c then .ok .src { s with draws := k } else r')).out :=
    (Res.Same.ite (fun _ => .ok _ s k) fun _ => h).vnFinish.alike
  have withD (n l m d : Nat) := copyLM_blind { s with vnD := d } hm n l m (vnDA s) k
  cases i with
  | bvxEos | bvxRaw n | bvxLzvn n p | bvx1 h => exact alikeIte rfl rfl
  | bvx2 h => exact alikeIte rfl (alikeIte rfl (alikeIte rfl (alikeIte rfl rfl)))
  | smlD l m d | medD l m d | lrgD l m d => exact short (withD _ l m d)
  | preD l m => exact short (copyLM_blind s hm _ _ _ _ k)
  | smlM m | lrgM m => exact (matchOpcode_blind s hm _ m k).vnFinish.alike
  | smlL l => exact (copyLiteral_blind s _ _ _ _ k).vnFinish.alike
  | lrgL l => exact short (copyLiteral_blind s _ _ _ _ k)
  | nop o => exact short (.ok _ (vnTake 1 0 s) k)
  | eos => exact short (.ok _ (vnTake 8 0 s) k)
  | udef o => exact (Res.Same.ok VnStop.invalidOp s k).vnFinish.alike
  | f2 v | f3 v | f5 v | f8 v | f14 v => exact (freqCount_blind s _ v k).alike
  | litSym => exact (litSymbol_blind s k).alike
  | lVal => exact (literalLength_blind s k).alike
  | mVal => exact (matchLength_blind s k).alike
  | dVal => exact (matchDistance_blind s k).alike

theorem runAction_blind (h : Runs s) (hm : MemInv s) {a : Action} (hcomes : Comes s (.action a)) : Blind (runAction a) s := by
  intro k
  cases hcomes with
  | remainder hready hblk hpending =>
    obtain ⟨-, h0, -⟩ := h.lzvn hblk
    exact (vnResume_blind s hm h0 k).vnFinish
  | raw hready hblk => exact stepRaw_blind s k
  | sourceCheck _ _ _ => exact .ended (stopRun _ s) k
  | blockEnd _ _ _ _ _ => exact .ok _ (endBlock s) k
  | pending _ _ _ _ => exact execute_blind s h.distance hm k
  | setup _ => exact setupStep_blind s k
  | lmdInit _ _ => exact lmdInit_blind s k
  | copy _ => exact execute_blind s h.distance hm k

theorem runReject_blind (r : Reject) : Blind (runReject r) s := by
  intro k
  cases r with
  | headerShort => exact .ended (stopRun _ s) k
  | badMagic => exact .ended (raiseMalformed _ s) k
  | opcodeShort => exact account_blind s .src k

theorem step_alike (h : Inv s) (hrun : s.status = .running) (k : Nat) : Alike (step s) (step { s with draws := k }) := by
  have hcomes := fetch_comes s
  have hr := h.runs (.inl hrun)
  rw [step, if_pos hrun, step, if_pos hrun, runStep, runStep, fetch_redraw s k]
  cases hfetch : fetch s with
  | instr i => exact exec_alike s h.mem i k
  | action a => exact (runAction_blind s hr h.mem (hfetch ▸ hcomes) k).alike
  | reject r => exact (runReject_blind s r k).alike
  | fault f => exact rfl

end Step

end Sys2Proof.Machine

namespace Sys2Proof.Proofs.Machine
open Sys2Proof.Machine

/-- Settles O54: the step is blind to the draw. -/
theorem unspecifiedBytesNeverMatter : Obligations.UnspecifiedBytesNeverMatter := by
  unfold Obligations.UnspecifiedBytesNeverMatter
  intro s t h hsame hrun
  rw [← hsame]
  exact step_alike s h hrun t.draws

end Sys2Proof.Proofs.Machine

/-! PROOFS. Going on after DST_FULL: what was appended before the stop and what is appended after it are together what a larger DST
would have held at once. -/

namespace Sys2Proof.Machine

/-! ## What is appended in two parts -/

section Parts
variable {old mid new m1 m2 : Memory} {p l l' m m' d : Nat} {lit lit' : Nat → Option Byte}

/-- More literals where no match has been appended yet. -/
theorem Appended.moreLiterals (h1 : Appended old mid p l 0 d lit) (h2 : Appended mid new (p + l) l' m d lit')
    (hlit : ∀ j < l', lit' j = lit (l + j)) : Appended old new p (l + l') m d lit := by
  obtain ⟨hbelow, hbytes, -, -⟩ := h1
  obtain ⟨hkept, hbytes', hmatch, habove⟩ := h2
  refine ⟨fun q hq => ?_, fun j hj => ?_, fun j hj => ?_, fun q hq => habove q (by omega)⟩
  · rw [hkept q (by omega), hbelow q hq]
  · by_cases hjl : j < l
    · rw [hkept _ (by omega), hbytes j hjl]
    · obtain ⟨i, rfl⟩ := Nat.exists_eq_add_of_le (not_lt.1 hjl)
      rw [← Nat.add_assoc, hbytes' i (by omega), hlit i (by omega)]
  · rw [← Nat.add_assoc]
    exact hmatch j hj

/-- More of the match after a part of it. -/
theorem Appended.moreMatch (h1 : Appended old mid p l m d lit) (h2 : Appended mid new (p + l + m) 0 m' d lit') :
    Appended old new p l (m + m') d lit := by
  obtain ⟨hbelow, hbytes, hmatch, -⟩ := h1
  obtain ⟨hkept, -, hmatch', habove⟩ := h2
  refine ⟨fun q hq => ?_, fun j hj => ?_, fun j hj => ?_, fun q hq => habove q (by omega)⟩
  · rw [hkept q (by omega), hbelow q hq]
  · rw [hkept _ (by omega), hbytes j hj]
  · by_cases hjm : j < m
    · rw [hkept _ (by omega), hkept _ (by omega), hmatch j hjm]
    · obtain ⟨i, rfl⟩ := Nat.exists_eq_add_of_le (not_lt.1 hjm)
      have hbyte := hmatch' i (by omega)
      rwa [Nat.add_zero, Nat.add_assoc (p + l)] at hbyte

/-- What follows a part that was cut: more of the match, or more literals where the match had not begun. -/
theorem Appended.rest (h1 : Appended old mid p l m d lit) (h2 : Appended mid new (p + l + m) l' m' d lit')
    (hlit : ∀ j < l', lit' j = lit (l + j)) (hcut : l' = 0 ∨ m = 0) : Appended old new p (l + l') (m + m') d lit := by
  rcases hcut with rfl | rfl
  · exact h1.moreMatch h2
  · rw [Nat.zero_add]
    exact h1.moreLiterals h2 hlit

/-- What is appended determines every byte: a match byte by the earlier one that it repeats. -/
theorem Appended.read_eq (h1 : Appended old m1 p l m d lit) (h2 : Appended old m2 p l m d lit)
    (hd : m = 0 ∨ (d ≠ 0 ∧ d ≤ p + l)) (q : Nat) : memRead .dst m1 q = memRead .dst m2 q := by
  obtain ⟨hbelow, hbytes, hmatch, habove⟩ := h1
  obtain ⟨hbelow', hbytes', hmatch', habove'⟩ := h2
  induction q using Nat.strong_induction_on with
  | _ q ih =>
    by_cases hp : q < p
    · rw [hbelow q hp, hbelow' q hp]
    obtain ⟨i, rfl⟩ := Nat.exists_eq_add_of_le (not_lt.1 hp)
    by_cases hl : i < l
    · rw [hbytes i hl, hbytes' i hl]
    obtain ⟨j, rfl⟩ := Nat.exists_eq_add_of_le (not_lt.1 hl)
    by_cases hm : j < m
    · rw [← Nat.add_assoc, hmatch j hm, hmatch' j hm]
      exact ih _ (by omega)
    · rw [habove _ (by omega), habove' _ (by omega)]

theorem Appended.mem_eq (h1 : Appended old m1 p l m d lit) (h2 : Appended old m2 p l m d lit)
    (hd : m = 0 ∨ (d ≠ 0 ∧ d ≤ p + l)) (hwf1 : Memory.wf .dst m1 = true) (hwf2 : Memory.wf .dst m2 = true) : m1 = m2 :=
  memory_ext hwf1 hwf2 (h1.read_eq h2 hd)

end Parts

/-! ## The copies with a larger DST -/

section Larger
variable {s s1 : State} {c : Nat}

/-- An operation that keeps the frame keeps the memories sound. -/
theorem Res.Frames.memInv {α : Type} {r : Res α} {a : α} {t : State} (h : r.Frames True s) (hr : r = .ok a t) (hm : MemInv s) :
    MemInv t := by
  subst hr
  cases h with
  | ok hframe => exact hframe.mem hm

theorem MemInv.dstWf (h : MemInv s) : Memory.wf .dst s.dst = true := by
  obtain ⟨-, hwf, -⟩ := h
  exact hwf

theorem MemInv.dstFilled (h : MemInv s) : DstFilled s := by
  obtain ⟨-, -, -, -, -, -, hfilled⟩ := h
  exact hfilled

variable (hm : MemInv s)
include hm

/-- Literals that fit are the same bytes with a larger DST. -/
theorem vnLiterals_grow {off a : Nat} (hcap : s.dstCap ≤ c) (hs : a = 0 ∨ s.srcPos + off + a ≤ s.srcLen)
    (hd : a = 0 ∨ s.dstPos + a ≤ s.dstCap)
    (hrun : vnLiterals off a s = .ok () s1) : vnLiterals off a { s with dstCap := c } = .ok () { s1 with dstCap := c } := by
  obtain ⟨mem1, hrun1, happ1⟩ := vnLiterals_appended hs hd
  obtain ⟨mem2, hrun2, happ2⟩ := vnLiterals_appended (s := { s with dstCap := c }) (off := off) (n := a) hs (by simp only; omega)
  have hwf1 := (vnLiterals_frames s off a).memInv hrun1 hm
  have hwf2 := (vnLiterals_frames { s with dstCap := c } off a).memInv hrun2 hm
  obtain rfl : mem1 = mem2 := happ1.mem_eq happ2 (.inl rfl) hwf1.dstWf hwf2.dstWf
  rw [hrun1] at hrun
  cases hrun
  exact hrun2

/-- The literals of a cut opcode, in two parts, are those that a larger DST takes at once. -/
theorem vnLiterals_resumes {off a b : Nat} (hs : a + b = 0 ∨ s.srcPos + off + (a + b) ≤ s.srcLen)
    (hd : a = 0 ∨ s.dstPos + a ≤ s.dstCap) (hc : s.dstPos + (a + b) ≤ c) (hrun : vnLiterals off a s = .ok () s1) :
    ∃ u k, vnLiterals off (a + b) { s with dstCap := c } = .ok () u ∧
      vnLiterals 0 b { s1 with dstCap := c } = .ok () { u with draws := k } := by
  obtain ⟨mem1, hrun1, happ1⟩ := vnLiterals_appended (s := s) (off := off) (n := a) (by omega) hd
  rw [hrun1] at hrun
  cases hrun
  obtain ⟨mem, hrun, happ⟩ := vnLiterals_appended (s := { s with dstCap := c }) hs (.inr hc)
  obtain ⟨mem2, hrun2, happ2⟩ := vnLiterals_appended (off := 0) (n := b) (s := { s with
    srcPos := s.srcPos + (off + a), vnPayRem := s.vnPayRem - (off + a), dstPos := s.dstPos + a, vnRawRem := s.vnRawRem - a,
    dst := mem1, draws := s.draws + 1, dstCap := c }) (by simp only; omega) (by simp only; omega)
  have hwf1 := (vnLiterals_frames s off a).memInv hrun1 hm
  have hwf := (vnLiterals_frames { s with dstCap := c } off (a + b)).memInv hrun hm
  have hwf2 := (vnLiterals_frames _ 0 b).memInv hrun2 hwf1
  have hwhole := happ1.moreLiterals happ2 fun j _ => by
    simp only [srcByte, show s.srcPos + (off + a) + 0 + j = s.srcPos + off + (a + j) by omega]
  obtain rfl : mem = mem2 := happ.mem_eq hwhole (.inl rfl) hwf.dstWf hwf2.dstWf
  refine ⟨_, s.draws + 1 + 1, hrun, hrun2.trans ?_⟩
  simp only [Nat.zero_add, Nat.add_assoc, Nat.sub_sub]

/-- The match of a cut opcode, in two parts, is the one that a larger DST takes at once. -/
theorem vnMatch_resumes {x b : Nat} (h0 : s.vnD ≠ 0) (hle : s.vnD ≤ s.dstPos) (hd : x = 0 ∨ s.dstPos + x ≤ s.dstCap)
    (hc : s.dstPos + (x + b) ≤ c) (hrun : vnMatch x s = .ok () s1) :
    ∃ u k, vnMatch (x + b) { s with dstCap := c } = .ok () u ∧
      vnMatch b { s1 with dstCap := c } = .ok () { u with draws := k } := by
  obtain ⟨mem1, hrun1, happ1⟩ := vnMatch_appended h0 hle hd hm.dstFilled
  have hwf1 := (vnMatch_frames s x).memInv hrun1 hm
  rw [hrun1] at hrun
  cases hrun
  obtain ⟨mem, hrun, happ⟩ := vnMatch_appended (s := { s with dstCap := c }) (n := x + b) h0 hle (.inr hc) hm.dstFilled
  obtain ⟨mem2, hrun2, happ2⟩ := vnMatch_appended (n := b) (s := { s with
    dstPos := s.dstPos + x, vnRawRem := s.vnRawRem - x, dst := mem1, draws := s.draws + 1, dstCap := c }) h0
    (hle.trans (Nat.le_add_right ..)) (by simp only; omega) hwf1.dstFilled
  have hwf := (vnMatch_frames { s with dstCap := c } (x + b)).memInv hrun hm
  have hwf2 := (vnMatch_frames _ b).memInv hrun2 hwf1
  obtain rfl : mem = mem2 := happ.mem_eq (happ1.moreMatch happ2) (.inr ⟨h0, hle⟩) hwf.dstWf hwf2.dstWf
  refine ⟨_, s.draws + 1 + 1, hrun, hrun2.trans ?_⟩
  simp only [Nat.add_assoc, Nat.sub_sub]

/-- A match that is cut after `x` bytes and goes on. -/
theorem copyMatchOnly_resumes {m x e : Nat} (h0 : s.vnD ≠ 0) (hle : s.vnD ≤ s.dstPos) (hd : x = 0 ∨ s.dstPos + x ≤ s.dstCap)
    (hc : s.dstPos + (x + e) ≤ c) (hx : x ≤ m) (hrun : vnMatch x s = .ok () s1) :
    (copyMatchOnly m (x + e) { s with dstCap := c }).Same (copyMatchOnly (m - x) e { s1 with dstCap := c }) := by
  rcases le_or_gt m (x + e) with hfits | hcut
  · obtain ⟨u, k, hwhole, hrest⟩ := vnMatch_resumes (c := c) (b := m - x) hm h0 hle hd (by omega) hrun
    rw [Nat.add_sub_cancel' hx] at hwhole
    rw [copyMatchOnly, copyMatchOnly, if_pos hfits, if_pos (by omega), hwhole, hrest]
    exact .ok _ u k
  · obtain ⟨u, k, hwhole, hrest⟩ := vnMatch_resumes hm h0 hle hd hc hrun
    rw [copyMatchOnly, copyMatchOnly, if_neg hcut.not_ge, if_neg (by omega), hwhole, hrest, Nat.sub_sub]
    exact .ok _ { u with vnL := 0, vnM := m - (x + e) } k

/-- Literals that are cut after `a` bytes and go on, with their match after them. -/
theorem copyLM_resumes {k l m a e : Nat} (hs : HasLiterals k l s) (hd : a = 0 ∨ s.dstPos + a ≤ s.dstCap)
    (hc : s.dstPos + (a + e) ≤ c) (ha : a < l) (hrun : vnLiterals k a s = .ok () s1) :
    (copyLM k l m (a + e) { s with dstCap := c }).Same (copyLM 0 (l - a) m e { s1 with dstCap := c }) := by
  rcases le_or_gt l (a + e) with hfits | hcut
  · obtain ⟨u, n, hwhole, hrest⟩ := vnLiterals_resumes (c := c) (b := l - a) hm (by omega) hd (by omega) hrun
    rw [Nat.add_sub_cancel' ha.le] at hwhole
    have hu := (vnLiterals_frames { s with dstCap := c } k l).memInv hwhole hm
    rw [copyLM, copyLM, if_pos hfits, if_pos (by omega), hwhole, hrest, Res.bind_ok, Res.bind_ok,
      show a + e - l = e - (l - a) by omega]
    exact .ite (fun _ => .ok _ u n) fun hgood => copyMatchOnly_blind u (fun h0 => hgood (.inr h0)) hu _ _ n
  · obtain ⟨u, n, hwhole, hrest⟩ := vnLiterals_resumes (c := c) (b := e) hm (by omega) hd hc hrun
    rw [copyLM, copyLM, if_neg hcut.not_ge, if_neg (by omega), hwhole, hrest, Res.bind_ok, Res.bind_ok, Nat.sub_sub]
    exact .ok _ { u with vnL := l - (a + e), vnM := m } n

theorem copyLiteral_resumes {k l sa sa' a e : Nat} (hsa : k + l < sa) (hsa' : l - a < sa') (hs : HasLiterals k l s)
    (hd : a = 0 ∨ s.dstPos + a ≤ s.dstCap) (hc : s.dstPos + (a + e) ≤ c) (ha : a < l) (hrun : vnLiterals k a s = .ok () s1) :
    (copyLiteral k l sa (a + e) { s with dstCap := c }).Same (copyLiteral 0 (l - a) sa' e { s1 with dstCap := c }) := by
  rw [copyLiteral, copyLiteral, if_neg hsa.not_ge, if_neg (show ¬ sa' ≤ 0 + (l - a) by omega)]
  rcases le_or_gt l (a + e) with hfits | hcut
  · obtain ⟨u, n, hwhole, hrest⟩ := vnLiterals_resumes (c := c) (b := l - a) hm (by omega) hd (by omega) hrun
    rw [Nat.add_sub_cancel' ha.le] at hwhole
    rw [if_pos hfits, if_pos (by omega), hwhole, hrest]
    exact .ok _ u n
  · obtain ⟨u, n, hwhole, hrest⟩ := vnLiterals_resumes (c := c) (b := e) hm (by omega) hd hc hrun
    rw [if_neg hcut.not_ge, if_neg (by omega), hwhole, hrest, Res.bind_ok, Res.bind_ok, Nat.sub_sub]
    exact .ok _ { u with vnL := l - (a + e), vnM := 0 } n

end Larger

/-! ## An LZVN step that was stopped -/

section Stopped
variable {s u : State} {c : Nat}

/-- The window of the step with the larger DST is that of the stopped step and that of the resumed one. -/
theorem vnDA_larger (hdst : s.dstPos ≤ s.dstCap) (hcap : s.dstCap ≤ c) (hpos : u.dstPos = s.dstPos + vnDA s)
    (hraw : u.vnRawRem = s.vnRawRem - vnDA s) (hleft : u.vnRawRem ≠ 0) :
    vnDA { s with dstCap := c } = vnDA s + vnDA { u with dstCap := c } ∧ s.dstPos + vnDA { s with dstCap := c } ≤ c := by
  simp only [vnDA, vnDstLim] at *
  omega

theorem vnResume_literals (hM : s.vnM = 0) :
    vnResume s = copyLiteral 0 s.vnL (vnSA s) (vnDA s) { s with vnL := 0, vnM := 0 } := if_pos hM

theorem vnResume_match (hL : s.vnL = 0) (hM : s.vnM ≠ 0) :
    vnResume s = copyMatchOnly s.vnM (vnDA s) { s with vnL := 0, vnM := 0 } := (if_neg hM).trans (if_pos hL)

theorem vnResume_both (hL : s.vnL ≠ 0) (hM : s.vnM ≠ 0) :
    vnResume s = copyLM 0 s.vnL s.vnM (vnDA s) { s with vnL := 0, vnM := 0 } := (if_neg hM).trans (if_neg hL)

theorem copyMatchOnly_dst {m da : Nat} (h : copyMatchOnly m da s = .ok .dst u) :
    da < m ∧ ∃ s1, vnMatch da s = .ok () s1 ∧ u = { s1 with vnL := 0, vnM := m - da } := by
  rw [copyMatchOnly] at h
  split at h
  · obtain ⟨_, s1, -, h⟩ := Res.bind_eq_ok.1 h
    cases h
  · next hcut =>
    obtain ⟨_, s1, hrun, h⟩ := Res.bind_eq_ok.1 h
    cases h
    exact ⟨not_le.1 hcut, s1, hrun, rfl⟩

theorem copyLiteral_dst {k l sa da : Nat} (h : copyLiteral k l sa da s = .ok .dst u) :
    k + l < sa ∧ da < l ∧ ∃ s1, vnLiterals k da s = .ok () s1 ∧ u = { s1 with vnL := l - da, vnM := 0 } := by
  rw [copyLiteral] at h
  split at h
  · cases h
  · next hsa =>
    split at h
    · obtain ⟨_, s1, -, h⟩ := Res.bind_eq_ok.1 h
      cases h
    · next hcut =>
      obtain ⟨_, s1, hrun, h⟩ := Res.bind_eq_ok.1 h
      cases h
      exact ⟨not_le.1 hsa, not_le.1 hcut, s1, hrun, rfl⟩

theorem copyLM_dst {k l m da : Nat} (h : copyLM k l m da s = .ok .dst u) :
    (da < l ∧ ∃ s1, vnLiterals k da s = .ok () s1 ∧ u = { s1 with vnL := l - da, vnM := m }) ∨
    (l ≤ da ∧ ∃ s1, vnLiterals k l s = .ok () s1 ∧ ¬ (s1.dstPos < s1.vnD ∨ s1.vnD = 0) ∧
      copyMatchOnly m (da - l) s1 = .ok .dst u) := by
  rw [copyLM] at h
  split at h
  · next hfits =>
    obtain ⟨_, s1, hrun, h⟩ := Res.bind_eq_ok.1 h
    split at h
    · cases h
    · next hgood => exact .inr ⟨hfits, s1, hrun, hgood, h⟩
  · next hcut =>
    obtain ⟨_, s1, hrun, h⟩ := Res.bind_eq_ok.1 h
    cases h
    exact .inl ⟨not_le.1 hcut, s1, hrun, rfl⟩

theorem vnLiterals_moves {off n : Nat} (h : vnLiterals off n s = .ok () u) :
    u.dstPos = s.dstPos + n ∧ u.vnRawRem = s.vnRawRem - n ∧ u.dstCap = s.dstCap ∧ u.vnL = s.vnL ∧ u.vnM = s.vnM := by
  obtain ⟨_, s1, hcopy, h⟩ := Res.bind_eq_ok.1 h
  cases h
  rw [(copyFromSrc_ok hcopy).1.only_dst]
  exact ⟨rfl, rfl, rfl, rfl, rfl⟩

theorem vnMatch_moves {n : Nat} (h : vnMatch n s = .ok () u) :
    u.dstPos = s.dstPos + n ∧ u.vnRawRem = s.vnRawRem - n := by
  obtain ⟨_, s1, hcopy, h⟩ := Res.bind_eq_ok.1 h
  cases h
  rw [(copyFromDst_ok hcopy).1.only_dst]
  exact ⟨rfl, rfl⟩

variable (hm : MemInv s) (hdst : s.dstPos ≤ s.dstCap) (hcap : s.dstCap ≤ c) (hL : s.vnL = 0) (hM : s.vnM = 0)
include hm hL hM

/-- The match of an opcode, cut after `x` bytes; `e` is the room behind the cut. -/
theorem copyMatchOnly_goesOn {m x e : Nat} (h0 : s.vnD ≠ 0) (hle : s.vnD ≤ s.dstPos) (hroom : HasRoom x s)
    (hc : s.dstPos + (x + e) ≤ c) (hrun : copyMatchOnly m x s = .ok .dst u)
    (he : u.dstPos = s.dstPos + x → u.vnRawRem = s.vnRawRem - x → vnDA { u with dstCap := c } = e) :
    (copyMatchOnly m (x + e) { s with dstCap := c }).Same (vnResume { u with dstCap := c }) := by
  obtain ⟨hcut, s1, hrun1, rfl⟩ := copyMatchOnly_dst hrun
  have hsame := copyMatchOnly_resumes (c := c) (m := m) hm h0 hle hroom hc hcut.le hrun1
  obtain ⟨mem, hexplicit, -⟩ := vnMatch_appended (n := x) h0 hle hroom hm.dstFilled
  obtain rfl : s1 = _ := (Res.ok.inj (hrun1.symm.trans hexplicit)).2
  rw [vnResume_match rfl (show m - x ≠ 0 by omega), he rfl rfl]
  simp only [hL, hM] at hsame ⊢
  exact hsame

variable (hleft : u.vnRawRem ≠ 0)
include hdst hcap hleft

/-- A match-only opcode, or the match of a remainder, that filled the window. -/
theorem copyMatchOnly_stopped {m : Nat} (h0 : s.vnD ≠ 0) (hle : s.vnD ≤ s.dstPos)
    (hrun : copyMatchOnly m (vnDA s) s = .ok .dst u) :
    (copyMatchOnly m (vnDA { s with dstCap := c }) { s with dstCap := c }).Same (vnResume { u with dstCap := c }) := by
  obtain ⟨-, s1, hrun1, rfl⟩ := copyMatchOnly_dst hrun
  obtain ⟨mem, hexplicit, -⟩ := vnMatch_appended (n := vnDA s) h0 hle (hasRoom_vnDA s) hm.dstFilled
  obtain rfl : s1 = _ := (Res.ok.inj (hrun1.symm.trans hexplicit)).2
  obtain ⟨hwin, hc⟩ := vnDA_larger hdst hcap rfl rfl hleft
  rw [hwin] at hc ⊢
  exact copyMatchOnly_goesOn hm hL hM h0 hle (hasRoom_vnDA s) hc hrun fun _ _ => rfl

/-- Literals without a match that filled the window. -/
theorem copyLiteral_stopped {k l : Nat} (hrun : copyLiteral k l (vnSA s) (vnDA s) s = .ok .dst u) :
    (copyLiteral k l (vnSA s) (vnDA { s with dstCap := c }) { s with dstCap := c }).Same (vnResume { u with dstCap := c }) := by
  obtain ⟨hsa, hcut, s1, hrun1, rfl⟩ := copyLiteral_dst hrun
  have hs := hasLiterals_of_lt_vnSA hsa
  obtain ⟨mem, hexplicit, -⟩ := vnLiterals_appended (s := s) (off := k) (n := vnDA s) (by omega) (hasRoom_vnDA s)
  obtain rfl : s1 = _ := (Res.ok.inj (hrun1.symm.trans hexplicit)).2
  obtain ⟨hwin, hc⟩ := vnDA_larger hdst hcap rfl rfl hleft
  rw [hwin] at hc ⊢
  rw [vnResume_literals rfl]
  have hsame {sa' : Nat} (hsa' : l - vnDA s < sa') :=
    copyLiteral_resumes (c := c) (sa := vnSA s) hm hsa hsa' hs (hasRoom_vnDA s) hc hcut hrun1
  simp only [hL, hM] at hsame ⊢
  refine hsame ?_
  simp only [vnSA, vnSrcLim] at hsa ⊢
  omega

/-- Literals and a match of which some filled the window. -/
theorem copyLM_stopped {k l m : Nat} (hs : HasLiterals k l s) (hm0 : m ≠ 0) (hrun : copyLM k l m (vnDA s) s = .ok .dst u) :
    (copyLM k l m (vnDA { s with dstCap := c }) { s with dstCap := c }).Same (vnResume { u with dstCap := c }) := by
  rcases copyLM_dst hrun with ⟨hcut, s1, hrun1, rfl⟩ | ⟨hfits, s1, hrun1, hgood, hmatch⟩
  · obtain ⟨mem, hexplicit, -⟩ := vnLiterals_appended (s := s) (off := k) (n := vnDA s) (by omega) (hasRoom_vnDA s)
    obtain rfl : s1 = _ := (Res.ok.inj (hrun1.symm.trans hexplicit)).2
    obtain ⟨hwin, hc⟩ := vnDA_larger hdst hcap rfl rfl hleft
    rw [hwin] at hc ⊢
    rw [vnResume_both (show l - vnDA s ≠ 0 by omega) hm0]
    have hsame := copyLM_resumes (c := c) (m := m) hm hs (hasRoom_vnDA s) hc hcut hrun1
    simp only [hL, hM] at hsame ⊢
    exact hsame
  · have hroom := hasRoom_vnDA s
    have hgrow := vnLiterals_grow hm hcap hs (by omega) hrun1
    have hm1 := (vnLiterals_frames s k l).memInv hrun1 hm
    obtain ⟨hpos1, hraw1, hcap1, hL1, hM1⟩ := vnLiterals_moves hrun1
    obtain ⟨-, s2, hrun2, hu⟩ := copyMatchOnly_dst hmatch
    obtain ⟨hpos2, hraw2⟩ := vnMatch_moves hrun2
    have hupos : u.dstPos = s.dstPos + vnDA s := by rw [hu]; simp only; omega
    have huraw : u.vnRawRem = s.vnRawRem - vnDA s := by rw [hu]; simp only; omega
    obtain ⟨hwin, hc⟩ := vnDA_larger (c := c) hdst hcap hupos huraw hleft
    rw [hwin] at hc ⊢
    rw [copyLM, if_pos (by omega), hgrow, Res.bind_ok, if_neg hgood, Nat.sub_add_comm hfits]
    exact copyMatchOnly_goesOn hm1 (hL1.trans hL) (hM1.trans hM) (fun h0 => hgood (.inr h0)) (not_lt.1 fun hlt => hgood (.inl hlt))
      (by omega) (by omega) hmatch fun _ _ => rfl

end Stopped

/-! ## The step of an LZVN block -/

theorem SameButDraws.symm {s t : State} (h : SameButDraws s t) : SameButDraws t s := by
  rw [SameButDraws] at h ⊢
  rw [← h]

theorem Alike.refl (o : Host.Outcome State Fault Refusal) : Alike o o := by
  cases o with
  | next _ | fault _ | refused _ => exact rfl

theorem Alike.symm {o o' : Host.Outcome State Fault Refusal} (h : Alike o o') : Alike o' o := by
  cases o with
  | next s =>
    cases o' with
    | next t => exact SameButDraws.symm h
    | fault _ | refused _ => exact h.elim
  | fault f =>
    cases o' with
    | fault g => exact Eq.symm h
    | next _ | refused _ => exact h.elim
  | refused r =>
    cases o' with
    | refused q => exact Eq.symm h
    | next _ | fault _ => exact h.elim

section Lzvn
variable {s t u : State} {c : Nat}

theorem vnFinish_full {stop : VnStop} (hu : u.status = .running) (h : (vnFinish (.ok stop u)).out = .next t)
    (hfull : t.status = .dstFull) : stop = .dst ∧ u.vnRawRem ≠ 0 ∧ t = stopRun .dstFull u := by
  rw [vnFinish_ok] at h
  cases stop with
  | cont =>
    cases h
    exact nomatch hu.symm.trans hfull
  | invalidOp | invalidD =>
    cases h
    exact nomatch hfull
  | src =>
    rw [account] at h
    split at h <;> cases h <;> exact nomatch hfull
  | eos =>
    rw [account] at h
    split at h <;> cases h
    · exact nomatch hu.symm.trans hfull
    · exact nomatch hfull
  | dst =>
    rw [account] at h
    split at h <;> cases h
    · exact nomatch hfull
    · next hraw => exact ⟨rfl, hraw, rfl⟩

/-- RESUME of a stop at a step boundary undoes the stop. -/
theorem resumed_eq (hrun : u.status = .running) (hready : u.phase = .ready) :
    ({ stopRun .dstFull u with dstCap := c, status := .running } : State) = { u with dstCap := c } := by
  have same {st : Status} {ph : Phase} (hst : u.status = st) (hph : u.phase = ph) :
      ({ u with dstCap := c, status := st, phase := ph } : State) = { u with dstCap := c } := by
    subst hst hph
    rfl
  exact same hrun hready

variable (h : Inv s) (hrun : s.status = .running) (hready : s.phase = .ready) (hblk : s.blk = .lzvn)
include h hrun hready hblk

/-- What the LZVN steps share: the run of the larger DST has to agree with the remainder that the stop kept. -/
theorem step_stopped {r rc : Res VnStop} {stop : VnStop} (hstep : step s = (vnFinish r).out) (hnext : step s = .next t)
    (hfull : t.status = .dstFull) (hr : r = .ok stop u) (hout : VnOut s stop u)
    (hsame : u.vnRawRem ≠ 0 → r = .ok .dst u → rc.Same (vnResume { u with dstCap := c })) :
    Alike (step { t with dstCap := c, status := .running }) (vnFinish rc).out := by
  obtain ⟨-, -, hustatus⟩ := hout.kept
  have huphase := hout.phase.trans hready
  obtain ⟨rfl, hraw, rfl⟩ := vnFinish_full (hustatus.trans hrun) (by rw [← hr, ← hstep, hnext]) hfull
  have hublk : u.blk = .lzvn := by cases hout with | dst => exact hblk
  obtain ⟨-, -, -, hpending, -⟩ := Proofs.LzfseBlock.dstFullMeansFullAndPending s _ h hrun hnext hfull
  have hpending := hpending hublk
  rw [stopRun_vnL, stopRun_vnM] at hpending
  rw [resumed_eq (hustatus.trans hrun) huphase,
    step_vnRemainder (s := { u with dstCap := c }) (hustatus.trans hrun) huphase hublk (by simp only; omega)]
  exact (hsame hraw hr).vnFinish.alike.symm

variable (hnext : step s = .next t) (hfull : t.status = .dstFull) (hcap : s.dstCap ≤ c)
include hnext hfull hcap

theorem remainder_resumes (hpending : s.vnL ≠ 0 ∨ s.vnM ≠ 0) :
    Alike (step { t with dstCap := c, status := .running }) (step { s with dstCap := c }) := by
  have hs := h.runs (.inl hrun)
  obtain ⟨hle, h0, hlits⟩ := hs.lzvn hblk
  obtain ⟨stop, u, hr, hout⟩ := vnResume_out hs hblk hpending
  rw [step_vnRemainder (s := { s with dstCap := c }) hrun hready hblk hpending]
  refine step_stopped h hrun hready hblk (step_vnRemainder hrun hready hblk hpending) hnext hfull hr hout fun hraw hr => ?_
  by_cases hM : s.vnM = 0
  · rw [vnResume_literals hM] at hr
    rw [vnResume_literals (s := { s with dstCap := c }) hM]
    exact copyLiteral_stopped (s := { s with vnL := 0, vnM := 0 }) h.mem hs.dstPos hcap rfl rfl hraw hr
  by_cases hL : s.vnL = 0
  · rw [vnResume_match hL hM] at hr
    rw [vnResume_match (s := { s with dstCap := c }) hL hM]
    exact copyMatchOnly_stopped (s := { s with vnL := 0, vnM := 0 }) h.mem hs.dstPos hcap rfl rfl hraw (h0 ⟨hL, hM⟩) (hle (.inl hL)) hr
  · rw [vnResume_both hL hM] at hr
    rw [vnResume_both (s := { s with dstCap := c }) hL hM]
    exact copyLM_stopped (s := { s with vnL := 0, vnM := 0 }) h.mem hs.dstPos hcap rfl rfl hraw
      (hasLiterals_of_lt_vnSA (s := s) (k := 0) (l := s.vnL) (by have := hlits hL; omega)) hM hr

variable (hL : s.vnL = 0) (hM : s.vnM = 0) {i : Instr}
include hL hM

omit h hready hblk hcap hL hM in
/-- An opcode whose step fills DST is not one whose window was too short. -/
theorem not_short_of_full (hexec : step s = exec i s) : exec i s ≠ (vnFinish (.ok .src s)).out := by
  intro hshort
  obtain ⟨hstop, -⟩ := vnFinish_full hrun ((hshort.symm.trans hexec.symm).trans hnext) hfull
  cases hstop

theorem exec_literalMatch_resumes {k l m d : Nat} (hexec : step s = exec i s) (hi : IsLiteralMatch s i k l m d) (hm : m ≠ 0)
    (hops : VnOperands s d l m) :
    Alike (step { t with dstCap := c, status := .running }) (exec i { s with dstCap := c }) := by
  have hs := h.runs (.inl hrun)
  have hsa : k + l < vnSA s := not_le.1 fun hshort =>
    not_short_of_full hrun hnext hfull hexec (exec_short (.inl ⟨k, l, m, d, hi, hshort⟩))
  obtain ⟨stop, u, hr, hout⟩ := copyLM_out (eq_vnMoved hL hM d) hs.filled hsa hm hops
  have hi' : IsLiteralMatch { s with dstCap := c } i k l m d := hi
  rw [exec_literalMatch_long hi' hsa]
  refine step_stopped h hrun hready hblk (hexec.trans (exec_literalMatch_long hi hsa)) hnext hfull hr hout fun hraw hr => ?_
  exact copyLM_stopped (s := { s with vnD := d }) h.mem hs.dstPos hcap hL hM hraw (hasLiterals_of_lt_vnSA (s := s) hsa) hm hr

theorem exec_literalOnly_resumes {k l : Nat} (hexec : step s = exec i s) (hi : IsLiteralOnly i k l) (hl : l ≠ 0)
    (hops : VnOperands s s.vnD l 0) :
    Alike (step { t with dstCap := c, status := .running }) (exec i { s with dstCap := c }) := by
  have hs := h.runs (.inl hrun)
  obtain ⟨hle, -, -⟩ := hs.lzvn hblk
  have hsa : k + l < vnSA s := not_le.1 fun hshort =>
    not_short_of_full hrun hnext hfull hexec (exec_short (.inr (.inr (.inl ⟨k, l, hi, hshort⟩))))
  obtain ⟨stop, u, hr, hout⟩ := copyLiteral_out (eq_vnMoved hL hM s.vnD) hsa (by omega) (hle (.inl hL)) hops
  rw [exec_literalOnly hi]
  refine step_stopped h hrun hready hblk (hexec.trans (exec_literalOnly hi)) hnext hfull hr hout fun hraw hr => ?_
  exact copyLiteral_stopped h.mem hs.dstPos hcap hL hM hraw hr

theorem exec_matchOnly_resumes {k m : Nat} (hexec : step s = exec i s) (hi : IsMatchOnly i k m) (hm : m ≠ 0)
    (hops : VnOperands s s.vnD 0 m) :
    Alike (step { t with dstCap := c, status := .running }) (exec i { s with dstCap := c }) := by
  have hs := h.runs (.inl hrun)
  obtain ⟨hle, -, -⟩ := hs.lzvn hblk
  have hsa : k < vnSA s := not_le.1 fun hshort =>
    not_short_of_full hrun hnext hfull hexec (exec_short (.inr (.inl ⟨k, m, hi, hshort⟩)))
  have hbase := consumed_eq_vnMoved hL hM k
  have hsteps := hexec.trans ((exec_matchOnly hi).trans (congrArg (fun r => (vnFinish r).out) (matchOpcode_long hsa)))
  rw [exec_matchOnly hi, matchOpcode_long (s := { s with dstCap := c }) hsa]
  by_cases h0 : s.vnD = 0
  · rw [if_pos h0, hnext] at hsteps
    obtain ⟨hstop, -⟩ := vnFinish_full (u := { s with srcPos := s.srcPos + k, vnPayRem := s.vnPayRem - k }) hrun hsteps.symm hfull
    cases hstop
  · rw [if_neg h0] at hsteps
    rw [if_neg h0]
    obtain ⟨stop, u, hr, hout⟩ := copyMatchOnly_out hbase hs.filled (hasRoom_vnDA s) h0 (hle (.inl hL)) hsa.le (by omega) hops
    refine step_stopped h hrun hready hblk hsteps hnext hfull hr hout fun hraw hr => ?_
    exact copyMatchOnly_stopped (s := { s with srcPos := s.srcPos + k, vnPayRem := s.vnPayRem - k }) h.mem hs.dstPos hcap hL hM
      hraw h0 (hle (.inl hL)) hr

theorem exec_lzvn_resumes (hexec : step s = exec i s) (hctx : i.ctx = .lzvn) (hwf : i.wf = true) :
    Alike (step { t with dstCap := c, status := .running }) (exec i { s with dstCap := c }) := by
  have neverFull {stop : VnStop} {u : State} (hi : exec i s = (vnFinish (.ok stop u)).out) (hu : u.status = s.status)
      (hstop : stop ≠ .dst) : Alike (step { t with dstCap := c, status := .running }) (exec i { s with dstCap := c }) :=
    absurd (vnFinish_full (hu.trans hrun) (hi.symm.trans (hexec.symm.trans hnext)) hfull).1 hstop
  cases opcode_shape s hctx hwf with
  | literalMatch hi hm hops => exact exec_literalMatch_resumes h hrun hready hblk hnext hfull hcap hL hM hexec hi hm hops
  | matchOnly hi hm hops => exact exec_matchOnly_resumes h hrun hready hblk hnext hfull hcap hL hM hexec hi hm hops
  | literalOnly hi hl hops => exact exec_literalOnly_resumes h hrun hready hblk hnext hfull hcap hL hM hexec hi hl hops
  | nop o =>
    by_cases hsa : vnSA s ≤ 1
    · exact neverFull (exec_short (.inr (.inr (.inr (.inl ⟨o, rfl, hsa⟩))))) rfl nofun
    · exact neverFull (stop := .cont) (u := vnTake 1 0 s) (by rw [exec, execNop, if_neg hsa]) rfl nofun
  | eos =>
    by_cases hsa : vnSA s < 8
    · exact neverFull (exec_short (.inr (.inr (.inr (.inr ⟨rfl, hsa⟩))))) rfl nofun
    · exact neverFull (stop := .eos) (u := vnTake 8 0 s) (by rw [exec, execEos, if_neg hsa]) rfl nofun
  | udef o => exact neverFull (stop := .invalidOp) (u := s) rfl rfl nofun

omit h hready hblk hnext hcap hL hM in
theorem runReject_not_full {r : Reject} (hrej : (runReject r s).out = .next t) : False := by
  cases r with
  | headerShort | badMagic =>
    cases hrej
    exact nomatch hfull
  | opcodeShort => exact nomatch (vnFinish_full hrun hrej hfull).1

omit h hnext hfull hcap in
/-- Bytes that decode to no opcode. -/
theorem step_of_noOpcode {bs : List Byte} {r : Reject} (hbytes : opcodeBytes s = some bs) (hdec : decodeLzvn bs = .reject r) :
    step s = (runReject r s).out := by
  have hfetch : fetch s = .reject r := by simp [fetch, fetchReady, fetchDecoded, decode, hready, hblk, hL, hM, hbytes, hdec]
  rw [step, if_pos hrun, runStep, hfetch]

omit hL hM in
theorem lzvn_resumes : Alike (step { t with dstCap := c, status := .running }) (step { s with dstCap := c }) := by
  by_cases hdone : s.vnL = 0 ∧ s.vnM = 0
  · obtain ⟨hL, hM⟩ := hdone
    obtain ⟨bs, hwindow⟩ := lzvnWindow_exists s
    have hbytes := opcodeBytes_eq hwindow
    cases hdec : decodeLzvn (bs.take 3) with
    | instr i =>
      have hbytes' : opcodeBytes { s with dstCap := c } = some (bs.take 3) :=
        (srcBytes_congr (s := s) (t := { s with dstCap := c }) rfl rfl _ _).trans hbytes
      rw [step_of_decodeLzvn (s := { s with dstCap := c }) hrun hready hblk hL hM hbytes' hdec]
      exact exec_lzvn_resumes h hrun hready hblk hnext hfull hcap hL hM
        (step_of_decodeLzvn hrun hready hblk hL hM hbytes hdec) (decodeLzvn_ctx hdec) (decodeLzvn_wf hdec)
    | reject r =>
      rw [step_of_noOpcode hrun hready hblk hL hM hbytes hdec] at hnext
      exact (runReject_not_full hrun hfull hnext).elim
  · exact remainder_resumes h hrun hready hblk hnext hfull hcap (by omega)

end Lzvn

/-! ## A triplet that was stopped -/

section Cut
variable {s t : State} {c d l n : Nat} {mem : Memory}

theorem Res.Frames.memInv_ended {α : Type} {r : Res α} {t : State} (h : r.Frames True s) (hr : r = .ended t) (hm : MemInv s) :
    MemInv t := by
  subst hr
  cases h with
  | ended hframe => exact hframe.mem hm

/-- The state of a triplet of which `l` literals were written before DST was full, resumed with room up to `c`. -/
def resumedCut (s : State) (c l n : Nat) (mem : Memory) : State :=
  { s with
    dstPos := s.dstCap, litPos := s.litPos + l, L := s.L - l, M := s.M - (s.dstCap - s.dstPos - l), dst := mem, draws := n,
    dstCap := c, phase := .ready }

/-- A triplet that fills DST: its distance is good, and every literal that there was room for was written by this block's pass. -/
theorem execute_full (h : Runs s) (hat : AtExecute s) (hnext : step s = .next t) (hfull : t.status = .dstFull) :
    ∃ d, s.D = some d ∧ d ≤ s.dstPos + s.L ∧ s.dstCap - s.dstPos < s.L + s.M ∧
      ∀ j < min s.L (s.dstCap - s.dstPos), litWritten s (s.litPos + j) = true := by
  rw [step_execute hat] at hnext
  by_cases hbad : s.D = none ∨ ∃ d, s.D = some d ∧ s.dstPos + s.L < d
  · rw [execute_badDistance hbad] at hnext
    cases hnext
    exact nomatch hfull
  rw [not_or, not_exists] at hbad
  obtain ⟨d, hD⟩ := Option.ne_none_iff_exists'.1 hbad.1
  have hle : d ≤ s.dstPos + s.L := not_lt.1 fun hlt => hbad.2 d ⟨hD, hlt⟩
  have h0 : d ≠ 0 := fun h0 => h.distance (hD.trans (by rw [h0]))
  have hlit := h.litEnd
  have hcap := h.dstPos
  have hw : ∀ j < min s.L (s.dstCap - s.dstPos), litWritten s (s.litPos + j) = true := by
    by_contra hstale
    push Not at hstale
    obtain ⟨j, hj, hstale⟩ := hstale
    rw [execute_copyLit_fault hD hle (copyLit_stale (by omega) (by omega) hj (Bool.eq_false_iff.2 hstale))] at hnext
    cases hnext
  refine ⟨d, hD, hle, not_le.1 fun hfits => ?_, hw⟩
  rw [min_eq_left (by omega)] at hw
  obtain ⟨mem, n, hrun, -⟩ := execute_fits hD hle h0 h.filled hcap hlit hfits hw
  rw [hrun] at hnext
  cases hnext
  exact nomatch hat.1.symm.trans hfull

section Rest
variable (h : Runs s) (hm : MemInv s) (hD : s.D = some d) (hle : d ≤ s.dstPos + s.L)
  (hcut : s.dstCap - s.dstPos < s.L + s.M) (hl : l = min s.L (s.dstCap - s.dstPos)) (hcap : s.dstCap ≤ c)
  (hw : ∀ j < l, litWritten s (s.litPos + j) = true) (hrest : MemInv (resumedCut s c l n mem))
  (happ : Appended s.dst mem s.dstPos l (s.dstCap - s.dstPos - l) d (fun j => memRead .lit s.lit (s.litPos + j)))
include h hm hD hle hcut hl hcap hw hrest happ

omit h hm hD hle hcut hl hcap hw hrest in
/-- The bytes of the cut triplet and those of its rest are the bytes of the whole. -/
theorem cut_appended {l' m' lw mw : Nat} {new : Memory} (hlw : l + l' = lw) (hmw : s.dstCap - s.dstPos - l + m' = mw)
    (hpos : s.dstPos + l + (s.dstCap - s.dstPos - l) = s.dstCap) (hone : l' = 0 ∨ s.dstCap - s.dstPos - l = 0)
    (h2 : Appended mem new s.dstCap l' m' d (fun j => memRead .lit s.lit (s.litPos + l + j))) :
    Appended s.dst new s.dstPos lw mw d (fun j => memRead .lit s.lit (s.litPos + j)) := by
  subst hlw hmw
  rw [← hpos] at h2
  exact happ.rest h2 (fun j _ => by rw [Nat.add_assoc]) hone

omit hw in
/-- The rest of a triplet that fits into the larger DST. -/
theorem execute_cut_fits (hfits : s.L + s.M ≤ c - s.dstPos) (hwc : ∀ j < s.L, litWritten s (s.litPos + j) = true) :
    (execute { s with dstCap := c }).Same (execute (resumedCut s c l n mem)) := by
  have hlit := h.litEnd
  have hpos := h.dstPos
  have h0 : d ≠ 0 := fun h0 => h.distance (hD.trans (by rw [h0]))
  obtain ⟨m1, n1, hrun1, happ1⟩ := execute_fits (s := { s with dstCap := c }) hD hle h0 h.filled (hpos.trans hcap) hlit hfits hwc
  obtain ⟨m2, n2, hrun2, happ2⟩ := execute_fits (s := resumedCut s c l n mem) hD (by simp only [resumedCut]; omega) h0
    hrest.dstFilled hcap (by simp only [resumedCut]; omega) (by simp only [resumedCut]; omega) fun j (hj : j < s.L - l) => by
      simp only [resumedCut, Nat.add_assoc]
      exact hwc _ (by omega)
  have hwf1 := (execute_frames _).memInv hrun1 hm
  have hwf2 := (execute_frames _).memInv hrun2 hrest
  have hwhole := cut_appended happ (l' := s.L - l) (m' := s.M - (s.dstCap - s.dstPos - l)) (lw := s.L) (mw := s.M)
    (by omega) (by omega) (by omega) (by omega) happ2
  obtain rfl : m1 = m2 := happ1.mem_eq hwhole (.inr ⟨h0, hle⟩) hwf1.dstWf hwf2.dstWf
  rw [hrun1, hrun2]
  simp only [resumedCut, show s.dstCap + (s.L - l) + (s.M - (s.dstCap - s.dstPos - l)) = s.dstPos + s.L + s.M by omega,
    show s.litPos + l + (s.L - l) = s.litPos + s.L by omega]
  exact .ok _ { s with
    dstCap := c, dstPos := s.dstPos + s.L + s.M, litPos := s.litPos + s.L, L := 0, M := 0, dst := m1, draws := n1, phase := .ready } n2

omit hcut hw in
/-- The rest of a triplet that the larger DST cuts as well. -/
theorem execute_cut_cuts (hcutc : c - s.dstPos < s.L + s.M)
    (hwc : ∀ j < min s.L (c - s.dstPos), litWritten s (s.litPos + j) = true) :
    (execute { s with dstCap := c }).Same (execute (resumedCut s c l n mem)) := by
  have hlit := h.litEnd
  have hpos := h.dstPos
  have h0 : d ≠ 0 := fun h0 => h.distance (hD.trans (by rw [h0]))
  obtain ⟨m1, n1, hrun1, happ1⟩ := execute_cut (s := { s with dstCap := c }) hD hle h0 h.filled (hpos.trans hcap) hlit hcutc rfl hwc
  obtain ⟨m2, n2, hrun2, happ2⟩ := execute_cut (s := resumedCut s c l n mem) (l := min (s.L - l) (c - s.dstCap)) hD
    (by simp only [resumedCut]; omega) h0 hrest.dstFilled hcap (by simp only [resumedCut]; omega)
    (by simp only [resumedCut]; omega) rfl fun j hj => by
      simp only [resumedCut, Nat.add_assoc]
      exact hwc _ (by omega)
  have hwf1 := (execute_frames _).memInv_ended hrun1 hm
  have hwf2 := (execute_frames _).memInv_ended hrun2 hrest
  have hlw : l + min (s.L - l) (c - s.dstCap) = min s.L (c - s.dstPos) := by omega
  have hmw : s.dstCap - s.dstPos - l + (c - s.dstCap - min (s.L - l) (c - s.dstCap)) = c - s.dstPos - min s.L (c - s.dstPos) := by
    omega
  have hwhole := cut_appended happ hlw hmw (by omega) (by omega) happ2
  obtain rfl : m1 = m2 := happ1.mem_eq hwhole (by simp only; omega) hwf1.dstWf hwf2.dstWf
  rw [hrun1, hrun2]
  simp only [resumedCut, Nat.add_assoc, hlw, show s.L - l - min (s.L - l) (c - s.dstCap) = s.L - min s.L (c - s.dstPos) by omega,
    show s.M - (s.dstCap - s.dstPos - l) - (c - s.dstCap - min (s.L - l) (c - s.dstCap)) =
      s.M - (c - s.dstPos - min s.L (c - s.dstPos)) by omega]
  exact .ended (stopRun .dstFull { s with
    dstCap := c, dstPos := c, litPos := s.litPos + min s.L (c - s.dstPos), L := s.L - min s.L (c - s.dstPos),
    M := s.M - (c - s.dstPos - min s.L (c - s.dstPos)), dst := m1, draws := n1 }) n2

omit hm hcut hrest happ in
/-- The rest of a triplet that comes to a stale literal. -/
theorem execute_cut_stale {j : Nat} (hj : j < min s.L (c - s.dstPos)) (hstale : litWritten s (s.litPos + j) = false) :
    (execute { s with dstCap := c }).Same (execute (resumedCut s c l n mem)) := by
  have hlit := h.litEnd
  have hpos := h.dstPos
  obtain ⟨i, rfl⟩ := Nat.exists_eq_add_of_le (not_lt.1 fun hjl => Bool.false_ne_true (hstale.symm.trans (hw j hjl)))
  have hwhole := copyLit_stale (s := { s with dstCap := c }) (by simp only; omega) (by simp only; omega) hj hstale
  have hrest := copyLit_stale (s := resumedCut s c l n mem) (n := min (s.L - l) (c - s.dstCap)) (j := i)
    (by simp only [resumedCut]; omega) (by simp only [resumedCut]; omega) (by omega)
    (by simp only [resumedCut, Nat.add_assoc]; exact hstale)
  rw [execute_copyLit_fault (s := { s with dstCap := c }) hD hle hwhole,
    execute_copyLit_fault (s := resumedCut s c l n mem) hD (by simp only [resumedCut]; omega) hrest]
  exact .fault _

/-- What is left of a triplet goes on as the whole of it does with the larger DST. -/
theorem execute_cut_resumes : (execute { s with dstCap := c }).Same (execute (resumedCut s c l n mem)) := by
  by_cases hwc : ∀ j < min s.L (c - s.dstPos), litWritten s (s.litPos + j) = true
  · rcases le_or_gt (s.L + s.M) (c - s.dstPos) with hfits | hcutc
    · exact execute_cut_fits h hm hD hle hcut hl hcap hrest happ hfits fun j hj => hwc j (by omega)
    · exact execute_cut_cuts h hm hD hle hl hcap hrest happ hcutc hwc
  · push Not at hwc
    obtain ⟨j, hj, hstale⟩ := hwc
    exact execute_cut_stale h hD hle hl hcap hw hj (Bool.eq_false_iff.2 hstale)

end Rest

theorem execute_resumes (h : Inv s) (hrun : s.status = .running) (hblk : s.blk = .v1 ∨ s.blk = .v2) (hat : AtExecute s)
    (hnext : step s = .next t) (hfull : t.status = .dstFull) (hcap : s.dstCap ≤ c) :
    Alike (step { t with dstCap := c, status := .running }) (step { s with dstCap := c }) := by
  have hs := h.runs (.inl hrun)
  obtain ⟨d, hD, hle, hcut, hw⟩ := execute_full hs hat hnext hfull
  have h0 : d ≠ 0 := fun h0 => hs.distance (hD.trans (by rw [h0]))
  obtain ⟨mem, n, hexec, happ⟩ := execute_cut hD hle h0 hs.filled hs.dstPos hs.litEnd hcut rfl hw
  have hmem := (execute_frames s).memInv_ended hexec h.mem
  rw [step_execute hat, hexec] at hnext
  cases hnext
  have hthere : sourceShort s = false := by
    obtain ⟨-, hcopy | ⟨-, -, hthere, -⟩⟩ := hat
    · exact (hs.triplet (.inr (.inr hcopy))).2
    · exact hthere
  have hresumed {st : Status} (hst : s.status = st) : ({ stopRun .dstFull { s with
      dstPos := s.dstCap, litPos := s.litPos + min s.L (s.dstCap - s.dstPos), L := s.L - min s.L (s.dstCap - s.dstPos),
      M := s.M - (s.dstCap - s.dstPos - min s.L (s.dstCap - s.dstPos)), dst := mem, draws := n } with
      dstCap := c, status := st } : State) = resumedCut s c (min s.L (s.dstCap - s.dstPos)) n mem := by
    subst hst
    rfl
  have hatRest : AtExecute (resumedCut s c (min s.L (s.dstCap - s.dstPos)) n mem) :=
    ⟨hrun, .inr ⟨rfl, hblk, hthere, by simp only [resumedCut]; omega⟩⟩
  have hatLarger : AtExecute { s with dstCap := c } := hat
  rw [hresumed hrun, step_execute hatRest, step_execute hatLarger]
  exact (execute_cut_resumes hs h.mem hD hle hcut rfl hcap hw hmem happ).alike.symm

end Cut

/-! ## Where a step stops with DST_FULL -/

/-- Of the effects of a step three stop it with DST_FULL. -/
theorem Effect.full {s t : State} (he : Effect s t) (hrun : s.status = .running) (hfull : t.status = .dstFull) :
    (s.phase = .ready ∧ t = stopRun .dstFull s) ∨ (s.phase = .ready ∧ s.blk = .lzvn) ∨
    ((s.blk = .v1 ∨ s.blk = .v2) ∧ AtExecute s) := by
  cases he with
  | rawFull hready _ => exact .inl ⟨hready, rfl⟩
  | lzvnFull hready hblk _ => exact .inr (.inl ⟨hready, hblk⟩)
  | cut hblk hat _ => exact .inr (.inr ⟨hblk, hat⟩)
  | lzvnGoesOn _ _ out | lzvnEnd _ _ out => exact nomatch (out.kept.2.2.trans hrun).symm.trans hfull
  | srcEmpty | eos | raised | headerRaised | lzvnRaised | lValRaised | setupRaised => exact nomatch hfull
  | _ => exact nomatch hrun.symm.trans hfull

end Sys2Proof.Machine

namespace Sys2Proof.Proofs.Machine
open Sys2Proof.Machine

/-- Settles O55: a step stops with DST_FULL in a RAW block with nothing copied, in an LZVN block with a remainder, or in a triplet
with its rest; each goes on as the step with the larger DST does. -/
theorem resumeAfterDstFullGoesOn : Obligations.ResumeAfterDstFullGoesOn := by
  unfold Obligations.ResumeAfterDstFullGoesOn
  intro s t c h hrun hstep hfull hcap
  rcases (effect_of_step h hrun hstep).full hrun hfull with ⟨hready, rfl⟩ | ⟨hready, hblk⟩ | ⟨hblk, hat⟩
  · rw [resumed_eq hrun hready]
    exact .refl _
  · exact lzvn_resumes h hrun hready hblk hstep hfull hcap
  · exact execute_resumes h hrun hblk hat hstep hfull hcap

end Sys2Proof.Proofs.Machine
